-- ==== Sys2Proof/Word.lean ====
section
/-! DEFINITION. The two widths of the block (00_scope.md R10): bytes and the 16-bit key-record fields. -/

namespace Sys2Proof

/-- A byte: 8 bits, unsigned (R10). Byte streams are lists of bytes, index 0 first (R52). -/
abbrev Byte := BitVec 8

/-- A 16-bit unsigned value: SLN or KID (R10). -/
abbrev Half := BitVec 16

end Sys2Proof
end

