-- ==== Sys2Proof/Syntax.lean ====
section
/-! DEFINITION. The syntax: the five commands, their operand record on the host port, the instantiation parameters,
and the host-side forms that exist before a command reaches the port. -/

namespace Sys2Proof

/-- The five host commands of 30_encoding.md R71, with the operands R73 gives each. -/
inductive Instr where
  /-- FENC: encode the payload `p` into one wire frame and transmit it (R100). -/
  | fenc (p : List Byte)
  /-- FDEC: receive the next frame (R120). -/
  | fdec
  /-- FABT: abort a pending receive (R130). -/
  | fabt
  /-- KENC: serialize a KeyItem (R160). -/
  | kenc (sln kid : Half) (kek erase : Bool) (key : List Byte)
  /-- KDEC: deserialize a key record (R163). -/
  | kdec (r : List Byte)
deriving DecidableEq, Repr

/-- The operand ports beside the command word, by the names of R73. Operands are values, not addresses; a command
takes the ports its row of R73 names and leaves the others unread.
DESIGN CHOICE (entry 2): the spec gives the operands and their widths, not one record for all commands; safe. -/
structure OperandRecord where
  /-- `P` of FENC. -/
  p : List Byte
  /-- `SLN` of KENC, 16 bits. -/
  sln : Half
  /-- `KID` of KENC, 16 bits. -/
  kid : Half
  /-- `KEK` of KENC, 1 bit, 1 = true. -/
  kek : Bool
  /-- `ERASE` of KENC, 1 bit, 1 = true. -/
  erase : Bool
  /-- `KEY` of KENC. -/
  key : List Byte
  /-- `R` of KDEC. -/
  r : List Byte
deriving DecidableEq, Repr

/-- The device-family constant set, 00_scope.md R6. -/
structure Family where
  /-- HEADER. -/
  hdr : Byte
  /-- FOOTER. -/
  ftr : Byte
  /-- ESCAPE. -/
  esc : Byte
  /-- HEADER_PLACEHOLDER. -/
  phHdr : Byte
  /-- FOOTER_PLACEHOLDER. -/
  phFtr : Byte
  /-- ESCAPE_PLACEHOLDER. -/
  phEsc : Byte
deriving DecidableEq, Repr

/-- A capacity: a number of bytes, or `∞` (R7, R8). -/
inductive Cap where
  | bytes (n : Nat)
  | unlimited
deriving DecidableEq, Repr

/-- The instantiation parameters of 00_scope.md section 3, as they are proposed (not yet checked). -/
structure Params where
  /-- FAMILY (R6). -/
  family : Family
  /-- BUF_CAP, counted in received, still escaped bytes (R7). -/
  bufCap : Cap
  /-- KR_CAP, counted in bytes of the key record (R8). -/
  krCap : Cap
  /-- T_DEADLINE in milliseconds; no rule reads it (R9). -/
  tDeadlineMs : Nat
deriving DecidableEq, Repr

/-- A value the host holds for SLN or KID before it reaches the 16-bit port (R162). -/
inductive HostValue where
  | int (v : Int)
  | text (t : String)
deriving DecidableEq, Repr

/-- Why the host itself must reject a value before it issues KENC (R162). -/
inductive HostReject where
  /-- The value is not an integer ("a text value"). -/
  | typeError
  /-- The value does not fit 16 bits ("any value above `0xFFFF`"). -/
  | rangeError
deriving DecidableEq, Repr

/-- A KeyItem as the host holds it, SLN and KID unchecked. -/
structure HostItem where
  sln : HostValue
  kid : HostValue
  kek : Bool
  erase : Bool
  key : List Byte
deriving DecidableEq, Repr

/-- A command as the host writes it (30_encoding.md R86), before its values are presented at the ports. -/
inductive HostCommand where
  | fenc (p : List Byte)
  | fdec
  | fabt
  | kenc (item : HostItem)
  | kdec (r : List Byte)
deriving DecidableEq, Repr

/-- The host-side pseudo-instructions of R87, their values already presented. -/
inductive Pseudo where
  /-- `KSEND`: KENC, then FENC of the record if the status is OK. -/
  | ksend (sln kid : Half) (kek erase : Bool) (key : List Byte)
  /-- `KRECV`: FDEC, then KDEC of the payload if the status is OK. -/
  | krecv
  /-- `FXCH`: FENC, then FDEC. -/
  | fxch (p : List Byte)
deriving DecidableEq, Repr

end Sys2Proof
end

