-- ==== Sys2Proof/Decode.lean ====
section
/-! DEFINITION. The command map of 30_encoding.md R70 to R73: the decoder, total on every command word and operand record, and
after it the encoder. -/

namespace Sys2Proof

/-- Why the decoder gives no command. -/
inductive DecodeError where
  /-- The command word is one of the 251 reserved values (R72). -/
  | reservedCmd (cmd : Byte)
deriving DecidableEq, Repr

/-- `UNIT = CMD[7:4]` (R70). -/
def cmdUnit (cmd : Byte) : BitVec 4 := cmd.extractLsb' 4 4

/-- `OP = CMD[3:0]` (R70). -/
def cmdOp (cmd : Byte) : BitVec 4 := cmd.extractLsb' 0 4

/-- The operand record with every port at zero or empty. -/
def OperandRecord.zero : OperandRecord :=
  { p := [], sln := 0, kid := 0, kek := false, erase := false, key := [], r := [] }

/-- The command of a command word and operand record (R71, R73), or the rejection of a reserved word (R72). -/
def decode (cmd : Byte) (ops : OperandRecord) : Except DecodeError Instr :=
  if cmdUnit cmd = 0x0 then
    if cmdOp cmd = 0x1 then .ok (.fenc ops.p)
    else if cmdOp cmd = 0x2 then .ok .fdec
    else if cmdOp cmd = 0x3 then .ok .fabt
    else .error (.reservedCmd cmd)
  else if cmdUnit cmd = 0x1 then
    if cmdOp cmd = 0x1 then .ok (.kenc ops.sln ops.kid ops.kek ops.erase ops.key)
    else if cmdOp cmd = 0x2 then .ok (.kdec ops.r)
    else .error (.reservedCmd cmd)
  else .error (.reservedCmd cmd)

/-- The reserved ranges as R72 lists them. -/
def reservedCmd (cmd : Byte) : Bool :=
  cmd == 0x00 || (0x04 ≤ cmd && cmd ≤ 0x0F) || cmd == 0x10 || (0x13 ≤ cmd && cmd ≤ 0x1F) || 0x20 ≤ cmd

/-- The command word of a command (R71). -/
def commandWord : Instr → Byte
  | .fenc _ => 0x01
  | .fdec => 0x02
  | .fabt => 0x03
  | .kenc _ _ _ _ _ => 0x11
  | .kdec _ => 0x12

/-- The operand record that presents a command's operands (R73), the ports it does not use at zero or empty. -/
def operandsOf : Instr → OperandRecord
  | .fenc p => { OperandRecord.zero with p := p }
  | .fdec => OperandRecord.zero
  | .fabt => OperandRecord.zero
  | .kenc sln kid kek erase key =>
    { OperandRecord.zero with sln := sln, kid := kid, kek := kek, erase := erase, key := key }
  | .kdec r => { OperandRecord.zero with r := r }

/-- The encoder: what the host presents at the port for a command. -/
def encode (i : Instr) : Byte × OperandRecord := (commandWord i, operandsOf i)

/-- The command word among the low `nbits` bits of `w`: `none` where they do not fit the 8-bit port (R70). -/
def portWord (nbits w : Nat) : Option Byte :=
  if w % 2 ^ nbits < 256 then some (BitVec.ofNat 8 (w % 2 ^ nbits)) else none

/-- The command the decoder reads from the table word `w` of `nbits` bits, every operand port at zero or empty. -/
def decodeTableWord (nbits w : Nat) : Option Instr :=
  match portWord nbits w with
  | some cmd => (decode cmd OperandRecord.zero).toOption
  | none => none

end Sys2Proof
end

