-- ==== Sys2Proof/WellFormed.lean ====
section
/-! DEFINITION. The well-formedness checks: WF_FAMILY (10_state.md R22), the bounds of the capacities (R7, R8), and
what a host value must be to be presented at a 16-bit port (R73, R162). A command itself has no further check:
"Every byte sequence is a legal payload" (R100), and the ports have exactly the operands' widths (R73). -/

namespace Sys2Proof

/-- R22 `distinct_specials`: HDR, FTR and ESC are pairwise different. -/
def Family.distinctSpecials (f : Family) : Bool :=
  f.hdr != f.ftr && f.hdr != f.esc && f.ftr != f.esc

/-- R22 `distinct_placeholders`: the three placeholders are pairwise different. -/
def Family.distinctPlaceholders (f : Family) : Bool :=
  f.phHdr != f.phFtr && f.phHdr != f.phEsc && f.phFtr != f.phEsc

/-- R22 `placeholder_not_delimiter`: no placeholder equals HDR or FTR. A placeholder may equal ESC. -/
def Family.placeholderNotDelimiter (f : Family) : Bool :=
  f.phHdr != f.hdr && f.phHdr != f.ftr &&
  f.phFtr != f.hdr && f.phFtr != f.ftr &&
  f.phEsc != f.hdr && f.phEsc != f.ftr

/-- WF_FAMILY (R22): all three checks hold. -/
def Family.wf (f : Family) : Bool :=
  f.distinctSpecials && f.distinctPlaceholders && f.placeholderNotDelimiter

/-- The capacity is at least `n` bytes. -/
def Cap.atLeast : Cap → Nat → Bool
  | .bytes c, n => n ≤ c
  | .unlimited, _ => true

/-- The parameters may be instantiated: WF_FAMILY (R22), BUF_CAP ≥ 1 (R7) and KR_CAP ≥ 5 (R8). -/
def Params.wf (p : Params) : Bool :=
  p.family.wf && p.bufCap.atLeast 1 && p.krCap.atLeast 5

/-- The value at the 16-bit port, or why the host must reject it (R162, D19). 0 and 0xFFFF do reach the port: they are
KENC's own errors (R161).
DEDUCED (entry 13): an integer below 0 fits no unsigned 16-bit port either, so it is a range error; safe. -/
def HostValue.present : HostValue → Except HostReject Half
  | .text _ => .error .typeError
  | .int v => if 0 ≤ v ∧ v ≤ 0xFFFF then .ok (BitVec.ofNat 16 v.toNat) else .error .rangeError

/-- The command that reaches the port, or why the host must reject it: SLN before KID (R162). -/
def HostCommand.present : HostCommand → Except HostReject Instr
  | .fenc p => .ok (.fenc p)
  | .fdec => .ok .fdec
  | .fabt => .ok .fabt
  | .kenc it =>
    match it.sln.present, it.kid.present with
    | .ok sln, .ok kid => .ok (.kenc sln kid it.kek it.erase it.key)
    | .error e, _ => .error e
    | .ok _, .error e => .error e
  | .kdec r => .ok (.kdec r)

end Sys2Proof
end

