-- ==== Sys2Proof/Config.lean ====
section
/-! DEFINITION. What an implementation fixes (00_scope.md section 3) and the one free choice of the model. Nothing here has a
value that Lean can evaluate: the constants without a body stand for every value the spec allows. -/

namespace Sys2Proof

/-- The test family TF of 95_test_vectors.md section 1: the example constants of the source, completed by D31 for test
vectors only. It is no family the block must implement (R21); the model uses it to show that WF_FAMILY can be met. -/
def Config.testFamily : Family :=
  { hdr := 0x61, ftr := 0x63, esc := 0x70, phHdr := 0x62, phFtr := 0x64, phEsc := 0x71 }

/-- The default receive deadline, "default 2 seconds" (R9, R239), in milliseconds. No rule reads it. -/
def Config.defaultDeadlineMs : Nat := 2000

/-- The test parameters of 95_test_vectors.md section 1: TF, `BUF_CAP = ∞`, `KR_CAP = ∞`. -/
def Config.testParams : Params :=
  { family := Config.testFamily, bufCap := .unlimited, krCap := .unlimited, tDeadlineMs := Config.defaultDeadlineMs }

/-- Parameters that may be instantiated, with the check once: a block with an ill-formed FAMILY does not exist, because
"the model gives it no meaning" (R22, D3). The default values show only that the type is inhabited. -/
structure Instantiation where
  /-- The parameters. -/
  params : Params := Config.testParams
  /-- WF_FAMILY and the bounds of the capacities. -/
  ok : params.wf = true := by decide
deriving DecidableEq, Repr, Inhabited

/-- The parameters of the block that `State.reset` powers on: any that may be instantiated (D2, D6, D17, R9: OPEN).
DESIGN CHOICE (entry 3): uninterpreted, so that a claim about it holds for every FAMILY, BUF_CAP, KR_CAP and
T_DEADLINE; safe. -/
opaque Config.instantiation : Instantiation

/-- Where no event is scheduled while a receive is pending and rx bytes wait, whether the next event is expiry (`true`) or
the rx step: "any of these may be enabled ... takes any one enabled event per step" (R129, S6).
DESIGN CHOICE (entry 7): a free value, drawn by the counter `State.draws`; safe. -/
opaque Config.freeExpiry : Nat → Bool

end Sys2Proof
end

