-- ==== Sys2Proof/Machine/State.lean ====
section
/-! DEFINITION. The state of the block and of its host port (10_state.md), the responses (30_encoding.md R74), the events
(60_exceptions.md R210), and the reasons a step can stop. -/

namespace Sys2Proof.Machine

/-- `dec_state`, 10_state.md R24. -/
inductive DecState where
  /-- No FDEC is pending. -/
  | idle
  /-- Exactly one FDEC is pending: DEC pulls rx bytes and the deadline is armed. -/
  | recv
deriving DecidableEq, Repr

/-- The thirteen statuses of 30_encoding.md R75.
DESIGN CHOICE (entry 10): names with a code function, in place of 8-bit values; safe. -/
inductive Status where
  | ok
  | framingBadPlaceholder
  | framingTrailingEscape
  | framingOverflow
  | timeout
  | closed
  | validationSln
  | validationKid
  | krLength
  | krReservedFlags
  | krTooLong
  | busy
  | illegalCmd
deriving DecidableEq, Repr

/-- The result fields of a response (R74). -/
inductive ResultFields where
  /-- No fields: FENC, FABT, and every status but OK. -/
  | none
  /-- FDEC's `PAYLOAD` and `HDR_SEEN`. -/
  | frame (payload : List Byte) (hdrSeen : Bool)
  /-- KENC's `RECORD`. -/
  | record (r : List Byte)
  /-- KDEC's `SLN`, `KID`, `KEK`, `ERASE` and `KEY`. -/
  | item (sln kid : Half) (kek erase : Bool) (key : List Byte)
deriving DecidableEq, Repr

/-- The command a response ends. -/
inductive Responder where
  | fenc
  | fdec
  | fabt
  | kenc
  | kdec
  /-- A reserved command word (R72). -/
  | reserved (cmd : Byte)
deriving DecidableEq, Repr

/-- One response record (R74), with the command it ends. -/
structure Response where
  source : Responder
  status : Status
  fields : ResultFields
deriving DecidableEq, Repr

/-- One event of the block: a step of one of the agents of R210. -/
inductive Event where
  /-- HOST issues a command word with its operand record (R73), reserved words among them. -/
  | command (cmd : Byte) (ops : OperandRecord)
  /-- RXENV appends bytes to the tail of the rx stream (R28). -/
  | rxArrive (bs : List Byte)
  /-- DEC processes one rx byte (41_frame_decoder.md R122 to R124). -/
  | rxStep
  /-- TIMER: the deadline expires (R128). -/
  | expire
  /-- RESET: the reset input is asserted (70_reset_and_hazards.md R230). It supersedes an event it coincides with (R206).
  DEDUCED (entry 9): that event is left out of the schedule; unsafe. -/
  | reset
deriving DecidableEq, Repr

/-- The whole state. The block's own state is `inst` (CFG and the parameters) and the four `dec` fields (R20); `rx` and `tx`
belong to the environment (R28, R29); `schedule`, `responses` and `draws` are the model's (entries 1, 5, 7). -/
structure State where
  /-- CFG (R21), as the FAMILY parameter it equals at all times, with the other parameters (R7 to R9). -/
  inst : Instantiation
  /-- `dec_state` (R24). -/
  decState : DecState
  /-- `dec_buf` (R25): the received bytes of the current frame, still escaped. -/
  decBuf : List Byte
  /-- `dec_ovf` (R26), 1 bit. -/
  decOvf : Bool
  /-- `dec_hdr` (R27), 1 bit. -/
  decHdr : Bool
  /-- The rx stream, head first (R28).
  UNVERIFIED (entry 11): loss-free, as the spec says; unsafe for a line that loses bytes (U5). -/
  rx : List Byte
  /-- The tx stream, first byte first (R29). -/
  tx : List Byte
  /-- What the host has been answered, oldest first (R74). No rule reads it (R33).
  DESIGN CHOICE (entry 5): kept so that a run's responses can be stated; safe. -/
  responses : List Response
  /-- The events still to come, the next first (R129).
  DESIGN CHOICE (entry 1): plain data in place of the choice of agents; safe. -/
  schedule : List Event
  /-- How many free choices have been drawn (entry 7). -/
  draws : Nat
deriving DecidableEq, Repr

/-- Why the machine has no step where a step was asked for. The block itself never traps (60_exceptions.md R200). -/
inductive Fault where
  /-- Raised by the rx step event: no receive is pending, or the rx stream is empty, so "no rx step is enabled" (R131, R55).
  Stuck; safe (entry 6). -/
  | rxStepNotEnabled
  /-- Raised by the expiry event while IDLE: expiry "is enabled whenever `dec_state = RECV`" and then only (R128).
  Stuck; safe (entry 6). -/
  | expiryNotEnabled
deriving DecidableEq, Repr

/-- What the model gives no meaning. -/
inductive Refusal where
  /-- Raised by an arm of `exec` whose instruction has no meaning yet. Safe. No arm does. -/
  | notModelled (mnemonic : String)
  /-- Raised by `State.instantiate` on a FAMILY that fails WF_FAMILY: "the model gives it no meaning" (R22). Safe. -/
  | illFormedFamily
  /-- Raised by `State.instantiate` on BUF_CAP below 1 or KR_CAP below 5 (R7, R8). Safe. -/
  | illFormedCapacity
  /-- Raised by `Status.ofCode` on a status byte 0x0D to 0xFF, which is never produced: a model that meets one in a trace
  "must `refuse` the trace" (S10). Safe. -/
  | reservedStatus (code : Byte)
deriving DecidableEq, Repr

/-- The block right after power-on with the given parameters (R230; the values of R21 to R27).
DESIGN CHOICE (entry 4): the streams, which belong to the environment, start empty; unsafe. -/
def State.powerOn (inst : Instantiation) : State :=
  { inst := inst
    decState := .idle
    decBuf := []
    decOvf := false
    decHdr := false
    rx := []
    tx := []
    responses := []
    schedule := []
    draws := 0 }

/-- The machine right after reset, its parameters open (entry 3). -/
def State.reset : State := State.powerOn Config.instantiation

end Sys2Proof.Machine
end

