-- ==== Sys2Proof/Machine/Flags.lean ====
section
/-! DEFINITION. The decoder's fields and its two flags (10_state.md R24 to R27, R32): the only places that write them. -/

namespace Sys2Proof.Machine

/-- Decoder state at acceptance of an FDEC: RECV, everything clear (R120). -/
def State.startReceive (s : State) : State :=
  { s with decState := .recv, decBuf := [], decOvf := false, decHdr := false }

/-- Decoder state after any end of a receive and after reset: IDLE, everything clear (R127, R128, R130, R230). -/
def State.clearDecoder (s : State) : State :=
  { s with decState := .idle, decBuf := [], decOvf := false, decHdr := false }

/-- Resynchronisation on a HEADER: partial frame and overflow discarded, `dec_hdr` set (R122). -/
def State.resync (s : State) : State :=
  { s with decBuf := [], decOvf := false, decHdr := true }

/-- Append a byte to `dec_buf` (R25, R124). -/
def State.storeByte (s : State) (b : Byte) : State :=
  { s with decBuf := s.decBuf ++ [b] }

/-- Set `dec_ovf`: a byte was dropped (R26, R124). -/
def State.markOverflow (s : State) : State :=
  { s with decOvf := true }

/-- The deadline timer runs exactly while a receive is pending (60_exceptions.md R208); it has no state of its own (R36). -/
def State.deadlineArmed (s : State) : Bool := s.decState == .recv

/-- An FDEC is pending (R24). -/
def State.receiving (s : State) : Bool := s.decState == .recv

end Sys2Proof.Machine
end

