-- ==== Sys2Proof/Machine/Operands.lean ====
section
/-! DEFINITION. The byte and field arithmetic of the operands: big-endian halves (20_memory.md R53), the range check of SLN
and KID (42_key_record.md R161), the flag byte (30_encoding.md R83), and the capacity comparisons (R7, R8). -/

namespace Sys2Proof.Machine

/-- `hi8(v) = v[15:8]` (00_scope.md R12). -/
def hi8 (v : Half) : Byte := v.extractLsb' 8 8

/-- `lo8(v) = v[7:0]` (R12). -/
def lo8 (v : Half) : Byte := v.extractLsb' 0 8

/-- The big-endian value of two bytes, the high byte first: `zext_16(a) * 256 + zext_16(b)` (R53). -/
def be16 (a b : Byte) : Half := a.setWidth 16 * 256 + b.setWidth 16

/-- `valid16(v) = (0x0001 ≤ v ≤ 0xFFFE)`, unsigned (R161). -/
def valid16 (v : Half) : Bool := 0x0001 ≤ v && v ≤ 0xFFFE

/-- A 1-bit value zero-extended to a byte (R12). -/
def bit8 (b : Bool) : Byte := if b then 1 else 0

/-- The flag byte of a key record: `zext_8(KEK) * 0x80 + zext_8(ERASE) * 0x20` (R83). -/
def flagByte (kek erase : Bool) : Byte := bit8 kek * 0x80 + bit8 erase * 0x20

/-- The reserved bits of the flag byte: bits 6 and 4 to 0 (R83). -/
def reservedFlagMask : Byte := 0x5F

/-- `KEK = r[0][7:7]` (R84). -/
def flagKek (f : Byte) : Bool := f.getLsbD 7

/-- `ERASE = r[0][5:5]` (R84). -/
def flagErase (f : Byte) : Bool := f.getLsbD 5

/-- `n` bytes do not exceed the capacity. -/
def admits : Cap → Nat → Bool
  | .bytes c, n => n ≤ c
  | .unlimited, _ => true

/-- One byte more fits beside `n`: `n < capacity` (R124). -/
def hasRoom : Cap → Nat → Bool
  | .bytes c, n => n < c
  | .unlimited, _ => true

end Sys2Proof.Machine
end

