-- ==== Sys2Proof/Machine/Framing.lean ====
section
/-! DEFINITION. The wire frame as pure functions of the framing constants (30_encoding.md section 4): escape and wire form,
byte classes, the unescape pass (41_frame_decoder.md R125), the completion result (R126), and R135's closed form of one
receive. They are stated for every constant set, well formed or not, so that R22 can be stated about them. -/

namespace Sys2Proof.Machine

/-- `esc(b)`, the escape table of R78 and R101. -/
def escapeByte (f : Family) (b : Byte) : List Byte :=
  if b = f.hdr then [f.esc, f.phHdr]
  else if b = f.ftr then [f.esc, f.phFtr]
  else if b = f.esc then [f.esc, f.phEsc]
  else [b]

/-- `body(p)`, the escaped payload (R76). -/
def escapedBody (f : Family) (p : List Byte) : List Byte := p.flatMap (escapeByte f)

/-- `wire(p) = [HDR] ++ body(p) ++ [FTR]` (R76). -/
def wireFrame (f : Family) (p : List Byte) : List Byte := [f.hdr] ++ escapedBody f p ++ [f.ftr]

/-- A byte that the encoder escapes: HDR, FTR or ESC. -/
def isSpecial (f : Family) (b : Byte) : Bool := b == f.hdr || b == f.ftr || b == f.esc

/-- The three receive classes of R77. -/
inductive ByteClass where
  | header
  | footer
  /-- Any other byte: ESC and every placeholder value included. -/
  | data
deriving DecidableEq, Repr

/-- `cls(b)` (R77). -/
def classOf (f : Family) (b : Byte) : ByteClass :=
  if b = f.hdr then .header else if b = f.ftr then .footer else .data

/-- The byte a placeholder stands for after an ESC, the table of R79; `none` for any other value. -/
def substituted (f : Family) (c : Byte) : Option Byte :=
  if c = f.phHdr then some f.hdr
  else if c = f.phFtr then some f.ftr
  else if c = f.phEsc then some f.esc
  else none

/-- The forward pass of R125 over what is left of the buffer, with the output written so far. -/
def unescapeFrom (f : Family) (out : List Byte) : List Byte → Status × List Byte
  | [] => (.ok, out)
  | b :: rest =>
    if b = f.esc then
      match rest with
      | [] => (.framingTrailingEscape, [])
      | c :: rest' =>
        match substituted f c with
        | some d => unescapeFrom f (out ++ [d]) rest'
        | none => (.framingBadPlaceholder, [])
    else unescapeFrom f (out ++ [b]) rest

/-- `unescape(s)` (R125): one forward pass into a fresh output, never in place (R236). -/
def unescape (f : Family) (s : List Byte) : Status × List Byte := unescapeFrom f [] s

/-- The result of an unescape pass as FDEC's status and fields (R126). -/
def frameResult (r : Status × List Byte) (hdrSeen : Bool) : Status × ResultFields :=
  if r.1 = .ok then (.ok, .frame r.2 hdrSeen) else (r.1, .none)

/-- `Complete()` of R126: overflow first, then the unescape pass. -/
def completionResult (f : Family) (buf : List Byte) (ovf hdr : Bool) : Status × ResultFields :=
  if ovf then (.framingOverflow, .none) else frameResult (unescape f buf) hdr

/-- R135's `k`: 0 without a HEADER in `seg`, otherwise one plus the index of the last one. -/
def afterLastHeader (f : Family) : List Byte → Nat
  | [] => 0
  | b :: rest =>
    if rest.contains f.hdr then afterLastHeader f rest + 1
    else if b = f.hdr then 1
    else 0

/-- R135: the result of a receive that pulls `seg` and then a FOOTER. -/
def closedReceive (f : Family) (cap : Cap) (seg : List Byte) : Status × ResultFields :=
  let body := seg.drop (afterLastHeader f seg)
  if admits cap body.length then frameResult (unescape f body) (seg.contains f.hdr)
  else (.framingOverflow, .none)

/-- The bytes before the first FOOTER of the stream and those after it. -/
def splitAtFooter (f : Family) : List Byte → Option (List Byte × List Byte)
  | [] => none
  | b :: rest =>
    if classOf f b = .footer then some ([], rest)
    else match splitAtFooter f rest with
      | some (seg, left) => some (b :: seg, left)
      | none => none

/-- What one receive makes of a byte stream with no other event in between: its result and the bytes it leaves
(R135, R55), or `none` where no FOOTER comes. -/
def receiveFrom (f : Family) (cap : Cap) (bytes : List Byte) : Option ((Status × ResultFields) × List Byte) :=
  match splitAtFooter f bytes with
  | some (seg, left) => some (closedReceive f cap seg, left)
  | none => none

end Sys2Proof.Machine
end

