-- ==== Sys2Proof/Machine/Status.lean ====
section
/-! DEFINITION. The numbers and names of the statuses (30_encoding.md R75) and of the command words that responses answer. -/

namespace Sys2Proof.Machine

/-- The 8-bit STATUS of R75. -/
def Status.code : Status → Byte
  | .ok => 0x00
  | .framingBadPlaceholder => 0x01
  | .framingTrailingEscape => 0x02
  | .framingOverflow => 0x03
  | .timeout => 0x04
  | .closed => 0x05
  | .validationSln => 0x06
  | .validationKid => 0x07
  | .krLength => 0x08
  | .krReservedFlags => 0x09
  | .krTooLong => 0x0A
  | .busy => 0x0B
  | .illegalCmd => 0x0C

/-- Every status, in the order of its code. -/
def Status.all : List Status :=
  [.ok, .framingBadPlaceholder, .framingTrailingEscape, .framingOverflow, .timeout, .closed, .validationSln,
   .validationKid, .krLength, .krReservedFlags, .krTooLong, .busy, .illegalCmd]

/-- The status a byte of a trace stands for; 0x0D to 0xFF are never produced, and a trace that holds one is refused
(R75, S10). -/
def Status.ofCode (b : Byte) : Except Refusal Status :=
  match Status.all.find? (fun st => st.code == b) with
  | some st => .ok st
  | none => .error (.reservedStatus b)

/-- The statuses a command may be answered with: the "produced by" column of R75, which is R201's table with OK. -/
def Responder.mayAnswer : Responder → Status → Bool
  | .fenc, st => st == .ok
  | .fdec, st =>
    [Status.ok, .framingBadPlaceholder, .framingTrailingEscape, .framingOverflow, .timeout, .closed, .busy].contains st
  | .fabt, st => st == .ok
  | .kenc, st => [Status.ok, .validationSln, .validationKid, .krTooLong].contains st
  | .kdec, st =>
    [Status.ok, .validationSln, .validationKid, .krLength, .krReservedFlags, .krTooLong].contains st
  | .reserved _, st => st == .illegalCmd

/-- Result fields are present exactly when the status is OK and R74 gives the command fields, and are that command's. -/
def Response.wellShaped (r : Response) : Bool :=
  match r.status, r.source, r.fields with
  | .ok, .fenc, .none => true
  | .ok, .fabt, .none => true
  | .ok, .fdec, .frame _ _ => true
  | .ok, .kenc, .record _ => true
  | .ok, .kdec, .item _ _ _ _ _ => true
  | .ok, _, _ => false
  | _, _, .none => true
  | _, _, _ => false

/-- The response says that the command it answers failed. -/
def Response.isError (r : Response) : Bool := r.status != .ok

end Sys2Proof.Machine
end

