-- ==== Sys2Proof/Machine/Ops.lean ====
section
/-! DEFINITION. The named operations over the state: CFG, responses, the stream primitives (20_memory.md R55, R56), the ends of
a receive, reset, and instantiation. The block has no traps (60_exceptions.md R200), so its one shared "exception" is
`State.raise`: a response with a status and nothing saved; there is nothing to return from (R204). -/

namespace Sys2Proof.Machine

/-- CFG (10_state.md R21): the six framing constants, equal to the FAMILY parameter at all times. -/
def State.cfg (s : State) : Family := s.inst.params.family

/-- BUF_CAP (R7). -/
def State.bufCap (s : State) : Cap := s.inst.params.bufCap

/-- KR_CAP (R8). -/
def State.krCap (s : State) : Cap := s.inst.params.krCap

/-- `respond(STATUS, fields)` (R13): the command's response is returned to the host. -/
def State.respond (s : State) (who : Responder) (st : Status) (fields : ResultFields) : State :=
  { s with responses := s.responses ++ [{ source := who, status := st, fields := fields }] }

/-- `respond` of a computed result. -/
def State.answer (s : State) (who : Responder) (r : Status × ResultFields) : State := s.respond who r.1 r.2

/-- `raise <STATUS>` (R13): respond with the status and no fields, and change nothing more (R200). -/
def State.raise (s : State) (who : Responder) (st : Status) : State := s.respond who st .none

/-- `TxPush(b)`: append one byte to the tx stream, which always accepts (R56, R29). -/
def State.txPush (s : State) (b : Byte) : State := { s with tx := s.tx ++ [b] }

/-- TxPush of each byte in index order (R52). -/
def State.txPushAll (s : State) (bs : List Byte) : State := bs.foldl State.txPush s

/-- `RxPull()`: remove and return the head byte; defined only while RECV and the stream is not empty (R55). -/
def State.rxPull (s : State) : Option (Byte × State) :=
  match s.decState, s.rx with
  | .recv, b :: rest => some (b, { s with rx := rest })
  | _, _ => none

/-- RXENV appends bytes to the tail of the rx stream, which is unbounded and loss-free (R28). -/
def State.rxAppend (s : State) (bs : List Byte) : State := { s with rx := s.rx ++ bs }

/-- A pending FDEC ends: all decoder state is cleared and the FDEC gets its one response (R127, R128, R130). -/
def State.endReceive (s : State) (r : Status × ResultFields) : State := s.clearDecoder.answer .fdec r

/-- The close of a pending receive, by FABT or reset (R130, R231): CLOSED for the FDEC; nothing while IDLE. -/
def State.closeReceive (s : State) : State :=
  match s.decState with
  | .recv => s.endReceive (.closed, .none)
  | .idle => s

/-- The reset event (70_reset_and_hazards.md R230): a pending FDEC ends with CLOSED, the decoder state is cleared; CFG and
both streams are untouched. -/
def State.resetEvent (s : State) : State := s.closeReceive.clearDecoder

/-- Instantiate a block with proposed parameters: the state after power-on, or the refusal of ill-formed ones
(R22, R7, R8; S4). -/
def State.instantiate (p : Params) : Host.Outcome State Fault Refusal :=
  if h : p.wf = true then .next (State.powerOn { params := p, ok := h })
  else if p.family.wf then .refused .illFormedCapacity
  else .refused .illFormedFamily

end Sys2Proof.Machine
end

