-- ==== Sys2Proof/Machine/FrameDecoder.lean ====
section
/-! DEFINITION. FDEC, FABT, the rx steps and the deadline, 41_frame_decoder.md. -/

namespace Sys2Proof.Machine

/-- FDEC (R120): BUSY if a receive is pending (R121); otherwise the receive starts, rx unread, no response yet. -/
def execFdec (s : State) : Host.Outcome State Fault Refusal :=
  .next (match s.decState with
    | .recv => s.raise .fdec .busy
    | .idle => s.startReceive)

/-- FABT (R130): a pending FDEC ends with CLOSED first, then FABT answers OK. -/
def execFabt (s : State) : Host.Outcome State Fault Refusal :=
  .next (s.closeReceive.respond .fabt .ok .none)

/-- `Complete()` (R126, R127): the response is formed from the state at the FOOTER, then the decoder state is cleared. -/
def State.complete (s : State) : State :=
  s.endReceive (completionResult s.cfg s.decBuf s.decOvf s.decHdr)

/-- A DATA byte (R124): stored while BUF_CAP allows, otherwise dropped with `dec_ovf` set. -/
def State.receiveData (s : State) (b : Byte) : State :=
  if hasRoom s.bufCap s.decBuf.length then s.storeByte b else s.markOverflow

/-- What the pulled byte does, by its class (R122, R123, R124). -/
def State.receiveByte (s : State) (b : Byte) : State :=
  match classOf s.cfg b with
  | .header => s.resync
  | .footer => s.complete
  | .data => s.receiveData b

/-- One rx step: pull a byte and process it at once. Not enabled while IDLE or with no byte waiting (R131). -/
def rxStepEvent (s : State) : Host.Outcome State Fault Refusal :=
  match s.rxPull with
  | some (b, t) => .next (t.receiveByte b)
  | none => .fault .rxStepNotEnabled

/-- Deadline expiry (R128): TIMEOUT for the pending FDEC, partial frame discarded. Enabled only while RECV. -/
def expiryEvent (s : State) : Host.Outcome State Fault Refusal :=
  match s.decState with
  | .recv => .next (s.endReceive (.timeout, .none))
  | .idle => .fault .expiryNotEnabled

end Sys2Proof.Machine
end

