-- ==== Sys2Proof/Machine/FrameEncoder.lean ====
section
/-! DEFINITION. FENC, 40_frame_encoder.md. -/

namespace Sys2Proof.Machine

/-- FENC (R100): HDR, the escape of each payload byte and FTR are pushed to tx in one indivisible step, whatever
`dec_state` is, and the status is always OK. -/
def execFenc (p : List Byte) (s : State) : Host.Outcome State Fault Refusal :=
  .next ((s.txPushAll (wireFrame s.cfg p)).respond .fenc .ok .none)

end Sys2Proof.Machine
end

