-- ==== Sys2Proof/Machine/KeyRecord.lean ====
section
/-! DEFINITION. KENC and KDEC, 42_key_record.md. -/

namespace Sys2Proof.Machine

/-- The key record of five operands, the layout of 30_encoding.md R82. -/
def keyRecord (sln kid : Half) (kek erase : Bool) (key : List Byte) : List Byte :=
  [flagByte kek erase, hi8 sln, lo8 sln, hi8 kid, lo8 kid] ++ key

/-- KENC's status and fields (R160), its checks in the order of R164: SLN, KID, KR_CAP. -/
def kencResult (cap : Cap) (sln kid : Half) (kek erase : Bool) (key : List Byte) : Status × ResultFields :=
  if !valid16 sln then (.validationSln, .none)
  else if !valid16 kid then (.validationKid, .none)
  else if !admits cap (5 + key.length) then (.krTooLong, .none)
  else (.ok, .record (keyRecord sln kid kek erase key))

/-- KDEC's checks on a record that has the five fixed bytes: reserved flags, SLN, KID (R163, R164). -/
def kdecFields (flags slnHi slnLo kidHi kidLo : Byte) (key : List Byte) : Status × ResultFields :=
  if flags &&& reservedFlagMask ≠ 0 then (.krReservedFlags, .none)
  else if !valid16 (be16 slnHi slnLo) then (.validationSln, .none)
  else if !valid16 (be16 kidHi kidLo) then (.validationKid, .none)
  else (.ok, .item (be16 slnHi slnLo) (be16 kidHi kidLo) (flagKek flags) (flagErase flags) key)

/-- KDEC's status and fields (R163), its checks in the order of R164: KR_CAP, length, reserved flags, SLN, KID. -/
def kdecResult (cap : Cap) (r : List Byte) : Status × ResultFields :=
  if !admits cap r.length then (.krTooLong, .none)
  else match r with
    | flags :: slnHi :: slnLo :: kidHi :: kidLo :: key => kdecFields flags slnHi slnLo kidHi kidLo key
    | _ => (.krLength, .none)

/-- KENC (R160): the response, and no other change (R167). -/
def execKenc (sln kid : Half) (kek erase : Bool) (key : List Byte) (s : State) : Host.Outcome State Fault Refusal :=
  .next (s.answer .kenc (kencResult s.krCap sln kid kek erase key))

/-- KDEC (R163): the response, and no other change (R167). -/
def execKdec (r : List Byte) (s : State) : Host.Outcome State Fault Refusal :=
  .next (s.answer .kdec (kdecResult s.krCap r))

end Sys2Proof.Machine
end

