-- ==== Sys2Proof/Machine/Dispatch.lean ====
section
/-! DEFINITION. The one dispatch from a command to its meaning. -/

namespace Sys2Proof.Machine

/-- The meaning of each command of 30_encoding.md R71. -/
def exec (i : Instr) (s : State) : Host.Outcome State Fault Refusal :=
  match i with
  | .fenc p => Sys2Proof.Machine.execFenc p s
  | .fdec => Sys2Proof.Machine.execFdec s
  | .fabt => Sys2Proof.Machine.execFabt s
  | .kenc sln kid kek erase key => Sys2Proof.Machine.execKenc sln kid kek erase key s
  | .kdec r => Sys2Proof.Machine.execKdec r s

end Sys2Proof.Machine
end

