-- ==== Sys2Proof/Machine/Events.lean ====
section
/-! DEFINITION. The events (60_exceptions.md R210, 41_frame_decoder.md R129): what each does, which agent moves, and what the
block does on its own when none is scheduled. -/

namespace Sys2Proof.Machine

/-- The host issues a command word with its operand record. A reserved word answers ILLEGAL_CMD with no other effect
(30_encoding.md R72); every other word runs its command. -/
def commandEvent (cmd : Byte) (ops : OperandRecord) (s : State) : Host.Outcome State Fault Refusal :=
  match decode cmd ops with
  | .ok i => exec i s
  | .error (.reservedCmd w) => .next (s.raise (.reserved w) .illegalCmd)

/-- One event, taken on the state without it in the schedule. -/
def performEvent (e : Event) (s : State) : Host.Outcome State Fault Refusal :=
  match e with
  | .command cmd ops => commandEvent cmd ops s
  | .rxArrive bs => .next (s.rxAppend bs)
  | .rxStep => rxStepEvent s
  | .expire => expiryEvent s
  | .reset => .next s.resetEvent

/-- What happens where the schedule lists nothing. IDLE: nothing is enabled but the environment, and the block waits. RECV
with no byte waiting: only the deadline is left, and it occurs (R134). RECV with a byte waiting: the rx step or expiry,
whichever the free choice says (R129).
DESIGN CHOICE (entry 7): the spec orders none of these; safe. -/
def autonomousStep (s : State) : Host.Outcome State Fault Refusal :=
  match s.decState with
  | .idle => .next s
  | .recv =>
    match s.rx with
    | [] => expiryEvent s
    | _ :: _ =>
      if Config.freeExpiry s.draws then expiryEvent { s with draws := s.draws + 1 }
      else rxStepEvent { s with draws := s.draws + 1 }

/-- The event is enabled (R129, R131, R128): the host, the environment and reset may move at any time (R213, R28, R230). -/
def Event.enabled (e : Event) (s : State) : Bool :=
  match e with
  | .command _ _ => true
  | .rxArrive _ => true
  | .rxStep => s.receiving && !s.rx.isEmpty
  | .expire => s.receiving
  | .reset => true

/-- The agents of R210. -/
inductive Agent where
  | host
  | enc
  | dec
  | krs
  | krd
  | rxenv
  | timer
  | resetInput
deriving DecidableEq, Repr

/-- The unit that performs a command: the unit column of R71, which gives FABT to DEC; R210's rows for the units name FENC,
FDEC's acceptance, KENC and KDEC, and FABT under none of them (entry 14). -/
def unitOf : Instr → Agent
  | .fenc _ => .enc
  | .fdec => .dec
  | .fabt => .dec
  | .kenc _ _ _ _ _ => .krs
  | .kdec _ => .krd

/-- The agent a step belongs to (R210): a command is the performing unit's, a reserved word the host's.
DESIGN CHOICE (entry 14): R210 lists the five commands under HOST, which issues them, and four of them again under the unit that
performs them; issuing and performing are one step here, owned by the unit, FABT's by DEC. No step reads the owner; safe. -/
def Event.agent : Event → Agent
  | .command cmd ops =>
    match decode cmd ops with
    | .ok i => unitOf i
    | .error _ => .host
  | .rxArrive _ => .rxenv
  | .rxStep => .dec
  | .expire => .timer
  | .reset => .resetInput

/-- The host presents a command word with its operand record as the very next event. -/
def State.issue (s : State) (cmd : Byte) (ops : OperandRecord) : State :=
  { s with schedule := .command cmd ops :: s.schedule }

/-- The command word of the table word `w` of `nbits` bits as the host port carries it: its low 8 bits. -/
def tableCommand (nbits w : Nat) : Byte := BitVec.ofNat 8 (w % 2 ^ nbits)

end Sys2Proof.Machine
end

