-- ==== Sys2Proof/Machine/Step.lean ====
section
/-! DEFINITION. The step: the next scheduled event, or what the block does on its own. -/

namespace Sys2Proof.Machine

/-- One step of the block and its host port: exactly one event (41_frame_decoder.md R129). -/
def step (s : State) : Host.Outcome State Fault Refusal :=
  match s.schedule with
  | [] => autonomousStep s
  | e :: rest => performEvent e { s with schedule := rest }

/-- `n` steps, stopping at a fault or refusal. -/
def runSteps : Nat → State → Host.Outcome State Fault Refusal
  | 0, s => .next s
  | n + 1, s =>
    match step s with
    | .next t => runSteps n t
    | .fault r => .fault r
    | .refused r => .refused r

/-- `s` with the command of the table word `w` as the next event on the host port, every operand port at zero or empty
(entry 1, entry 2): the block has no program, and its commands come from the host (00_scope.md R1). -/
def State.withFetchWord (s : State) (nbits w : Nat) : State :=
  s.issue (tableCommand nbits w) OperandRecord.zero

end Sys2Proof.Machine
end

