-- ==== Sys2Proof/Machine/Assembler.lean ====
section
/-! DEFINITION. The notation of 30_encoding.md R86: one command per line, `;` starts a comment. A reader for the lines of commands,
pseudo-instructions (R87) and environment events, and a writer for commands and responses. Text is a list of characters. -/

namespace Sys2Proof.Machine

/-- A lexical token of a line. -/
inductive AsmToken where
  | word (cs : List Char)
  | comma
  | openBracket
  | closeBracket
deriving DecidableEq, Repr

/-- A line of the notation. -/
inductive AsmLine where
  /-- Nothing, or a comment alone. -/
  | blank
  | command (c : HostCommand)
  | ksend (it : HostItem)
  | krecv
  | fxch (p : List Byte)
  /-- `rx <bytes>`: an arrival, not a command. -/
  | rx (bs : List Byte)
  /-- `expire`: deadline expiry, not a command. -/
  | expire
deriving DecidableEq, Repr

/-- Put the word read so far, if any, before the tokens. -/
def endWord (cur : List Char) (ts : List AsmToken) : List AsmToken :=
  match cur with
  | [] => ts
  | _ :: _ => .word cur :: ts

/-- The tokens of a line, up to its comment.
DESIGN CHOICE (entry 12): spaces and tabs separate words, which the spec leaves unsaid; safe. -/
def tokensFrom (cur : List Char) : List Char → List AsmToken
  | [] => endWord cur []
  | c :: cs =>
    if c = ';' then endWord cur []
    else if c = ' ' then endWord cur (tokensFrom [] cs)
    else if c = '\t' then endWord cur (tokensFrom [] cs)
    else if c = ',' then endWord cur (.comma :: tokensFrom [] cs)
    else if c = '[' then endWord cur (.openBracket :: tokensFrom [] cs)
    else if c = ']' then endWord cur (.closeBracket :: tokensFrom [] cs)
    else tokensFrom (cur ++ [c]) cs

/-- A decimal digit's value. -/
def decDigit (c : Char) : Option Nat :=
  if 0x30 ≤ c.toNat ∧ c.toNat ≤ 0x39 then some (c.toNat - 0x30) else none

/-- A hexadecimal digit's value, in either case (entry 12). -/
def hexDigit (c : Char) : Option Nat :=
  if 0x30 ≤ c.toNat ∧ c.toNat ≤ 0x39 then some (c.toNat - 0x30)
  else if 0x41 ≤ c.toNat ∧ c.toNat ≤ 0x46 then some (c.toNat - 0x41 + 10)
  else if 0x61 ≤ c.toNat ∧ c.toNat ≤ 0x66 then some (c.toNat - 0x61 + 10)
  else none

/-- The value of a run of digits, after the value `acc` of those before it. -/
def digitsFrom (base : Nat) (digit : Char → Option Nat) (acc : Nat) : List Char → Option Nat
  | [] => some acc
  | c :: cs =>
    match digit c with
    | some d => digitsFrom base digit (acc * base + d) cs
    | none => none

/-- A number: decimal, or hexadecimal with a `0x` before it. -/
def asmNumber (w : List Char) : Option Nat :=
  match w with
  | '0' :: 'x' :: h :: hs => digitsFrom 16 hexDigit 0 (h :: hs)
  | d :: ds => digitsFrom 10 decDigit 0 (d :: ds)
  | [] => none

/-- A two-digit hex byte. -/
def asmByte (w : List Char) : Option Byte :=
  match w with
  | [a, b] =>
    match hexDigit a, hexDigit b with
    | some x, some y => some (BitVec.ofNat 8 (16 * x + y))
    | _, _ => none
  | _ => none

/-- `0` or `1`. -/
def asmFlag (w : List Char) : Option Bool :=
  if w = ['0'] then some false else if w = ['1'] then some true else none

/-- The bytes up to a closing bracket that ends the line. -/
def asmBytesTail : List AsmToken → Option (List Byte)
  | [.closeBracket] => some []
  | .word w :: ts =>
    match asmByte w, asmBytesTail ts with
    | some b, some bs => some (b :: bs)
    | _, _ => none
  | _ => none

/-- `<bytes>`, as the last operand of a line. -/
def asmBytes : List AsmToken → Option (List Byte)
  | .openBracket :: ts => asmBytesTail ts
  | _ => none

/-- `<sln>, <kid>, <kek>, <erase>, <bytes>`. -/
def asmItem : List AsmToken → Option HostItem
  | .word sln :: .comma :: .word kid :: .comma :: .word kek :: .comma :: .word erase :: .comma :: ts =>
    match asmNumber sln, asmNumber kid, asmFlag kek, asmFlag erase, asmBytes ts with
    | some s, some k, some e1, some e2, some key =>
      some { sln := .int s, kid := .int k, kek := e1, erase := e2, key := key }
    | _, _, _, _, _ => none
  | _ => none

/-- The line that a line's tokens spell (R86, R87). -/
def parseTokens : List AsmToken → Option AsmLine
  | [] => some .blank
  | .word w :: ts =>
    if w = "FENC".toList then (asmBytes ts).map (fun p => .command (.fenc p))
    else if w = "FDEC".toList then (if ts = [] then some (.command .fdec) else none)
    else if w = "FABT".toList then (if ts = [] then some (.command .fabt) else none)
    else if w = "KENC".toList then (asmItem ts).map (fun it => .command (.kenc it))
    else if w = "KDEC".toList then (asmBytes ts).map (fun r => .command (.kdec r))
    else if w = "KSEND".toList then (asmItem ts).map .ksend
    else if w = "KRECV".toList then (if ts = [] then some .krecv else none)
    else if w = "FXCH".toList then (asmBytes ts).map .fxch
    else if w = "rx".toList then (asmBytes ts).map .rx
    else if w = "expire".toList then (if ts = [] then some .expire else none)
    else none
  | _ => none

/-- Read one line; `none` where it is not a line of the notation. -/
def parseLine (line : List Char) : Option AsmLine := parseTokens (tokensFrom [] line)

/-- A hexadecimal digit, upper case as the spec's vectors write it. -/
def hexChar (n : Nat) : Char := if n < 10 then Char.ofNat (0x30 + n) else Char.ofNat (0x41 + (n - 10))

/-- A byte as two hex digits. -/
def writeByte (b : Byte) : List Char := [hexChar (b.toNat / 16), hexChar (b.toNat % 16)]

/-- Bytes with a space between each two. -/
def writeSpaced : List Byte → List Char
  | [] => []
  | [b] => writeByte b
  | b :: c :: bs => writeByte b ++ ' ' :: writeSpaced (c :: bs)

/-- A bracketed byte list. -/
def writeBytes (bs : List Byte) : List Char := '[' :: writeSpaced bs ++ [']']

/-- A 16-bit value as `0x` and four hex digits. -/
def writeHalf (v : Half) : List Char :=
  ['0', 'x', hexChar (v.toNat / 4096 % 16), hexChar (v.toNat / 256 % 16), hexChar (v.toNat / 16 % 16),
   hexChar (v.toNat % 16)]

/-- A 1-bit value. -/
def writeFlag (b : Bool) : List Char := if b then ['1'] else ['0']

/-- What stands between two operands. -/
def writeComma : List Char := [',', ' ']

/-- A command as a line of R86. -/
def writeCommand : Instr → List Char
  | .fenc p => "FENC ".toList ++ writeBytes p
  | .fdec => "FDEC".toList
  | .fabt => "FABT".toList
  | .kenc sln kid kek erase key =>
    "KENC ".toList ++ writeHalf sln ++ writeComma ++ writeHalf kid ++ writeComma ++ writeFlag kek ++ writeComma ++
      writeFlag erase ++ writeComma ++ writeBytes key
  | .kdec r => "KDEC ".toList ++ writeBytes r

/-- The host's form of a command that is already at the port. -/
def hostForm : Instr → HostCommand
  | .fenc p => .fenc p
  | .fdec => .fdec
  | .fabt => .fabt
  | .kenc sln kid kek erase key =>
    .kenc { sln := .int sln.toNat, kid := .int kid.toNat, kek := kek, erase := erase, key := key }
  | .kdec r => .kdec r

/-- The name of a status (R75). -/
def statusName : Status → String
  | .ok => "OK"
  | .framingBadPlaceholder => "FRAMING_BAD_PLACEHOLDER"
  | .framingTrailingEscape => "FRAMING_TRAILING_ESCAPE"
  | .framingOverflow => "FRAMING_OVERFLOW"
  | .timeout => "TIMEOUT"
  | .closed => "CLOSED"
  | .validationSln => "VALIDATION_SLN"
  | .validationKid => "VALIDATION_KID"
  | .krLength => "KR_LENGTH"
  | .krReservedFlags => "KR_RESERVED_FLAGS"
  | .krTooLong => "KR_TOO_LONG"
  | .busy => "BUSY"
  | .illegalCmd => "ILLEGAL_CMD"

/-- The fields of a response, without their braces. -/
def writeFields : ResultFields → List Char
  | .none => []
  | .frame payload h => "PAYLOAD=".toList ++ writeBytes payload ++ ", HDR_SEEN=".toList ++ writeFlag h
  | .record r => "RECORD=".toList ++ writeBytes r
  | .item sln kid kek erase key =>
    "SLN=".toList ++ writeHalf sln ++ ", KID=".toList ++ writeHalf kid ++ ", KEK=".toList ++ writeFlag kek ++
      ", ERASE=".toList ++ writeFlag erase ++ ", KEY=".toList ++ writeBytes key

/-- A response as R86 writes it: the status, and the fields in braces where there are any (0x7B and 0x7D are the braces). -/
def writeResponse (r : Response) : List Char :=
  "-> ".toList ++ (statusName r.status).toList ++
    (match r.fields with
      | .none => []
      | fs => ' ' :: Char.ofNat 0x7B :: writeFields fs ++ [Char.ofNat 0x7D])

end Sys2Proof.Machine
end

