-- ==== Sys2Proof/Machine/Execution.lean ====
section
/-! DEFINITION. Executions without end, in which the host never stops issuing and bytes never stop arriving, and the weak fairness
of expiry over them (41_frame_decoder.md R134). The finite schedule of `step` is a prefix of such an execution. -/

namespace Sys2Proof.Machine

/-- The events of a list, one step each (41_frame_decoder.md R129), stopping at one that is not enabled. -/
def performEvents : List Event → State → Host.Outcome State Fault Refusal
  | [], s => .next s
  | e :: rest, s =>
    match performEvent e s with
    | .next t => performEvents rest t
    | .fault r => .fault r
    | .refused r => .refused r

/-- An unending sequence of states, and the event taken at each. -/
structure Execution where
  /-- The state before each step. -/
  state : Nat → State
  /-- The event of each step. -/
  event : Nat → Event

/-- Every step takes one enabled event and gives the next state (R129, 20_memory.md R63).
DESIGN CHOICE (entry 8): a step in which nothing happens is the arrival of no bytes; safe. -/
def Execution.runs (x : Execution) : Prop :=
  ∀ n, performEvent (x.event n) (x.state n) = .next (x.state (n + 1))

/-- Weak fairness of expiry (R134): from no step on does expiry stay enabled without ever being taken. -/
def Execution.expiryFair (x : Execution) : Prop :=
  ∀ n, (∀ m, n ≤ m → Event.expire.enabled (x.state m) = true) → ∃ m, n ≤ m ∧ x.event m = .expire

/-- "every execution" of R134: each step is the block's, and expiry is weakly fair. -/
def Execution.fair (x : Execution) : Prop := x.runs ∧ x.expiryFair

end Sys2Proof.Machine
end

