-- ==== Sys2Proof/Machine/Pseudo.lean ====
section
/-! DEFINITION. The host-side pseudo-instructions KSEND, KRECV and FXCH (30_encoding.md R87). The block does not implement them:
each expands to commands, the second of which may depend on the first one's response. -/

namespace Sys2Proof.Machine

/-- The first command of the expansion. -/
def firstCommand : Pseudo → Instr
  | .ksend sln kid kek erase key => .kenc sln kid kek erase key
  | .krecv => .fdec
  | .fxch p => .fenc p

/-- The command that follows a response to the first one: FENC of the record, KDEC of the payload (each on OK only), or the
FDEC of an exchange. -/
def followUp : Pseudo → Response → Option Instr
  | .ksend _ _ _ _ _, r =>
    match r.source, r.status, r.fields with
    | .kenc, .ok, .record rec => some (.fenc rec)
    | _, _, _ => none
  | .krecv, r =>
    match r.source, r.status, r.fields with
    | .fdec, .ok, .frame payload _ => some (.kdec payload)
    | _, _, _ => none
  | .fxch _, r => if r.source = .fenc then some .fdec else none

/-- The host has seen response `r` of the first command: it issues the command that follows, if there is one. -/
def resumePseudo (q : Pseudo) (r : Response) (s : State) : Host.Outcome State Fault Refusal :=
  match followUp q r with
  | some i => exec i s
  | none => .next s

/-- The host issues the first command, and where that command answers at once, the one that follows. KRECV's FDEC answers
later: its second command is `resumePseudo` on that response.
DEDUCED (entry 13): the commands are issued back to back, with no event of another agent between them; safe. -/
def performPseudo (q : Pseudo) (s : State) : Host.Outcome State Fault Refusal :=
  match exec (firstCommand q) s with
  | .next t =>
    match (t.responses.drop s.responses.length).getLast? with
    | some r => resumePseudo q r t
    | none => .next t
  | .fault e => .fault e
  | .refused e => .refused e

/-- The KSEND of a KeyItem that the host holds, or why the host rejects it first (R162). -/
def ksendOf (it : HostItem) : Except HostReject Pseudo :=
  match it.sln.present, it.kid.present with
  | .ok sln, .ok kid => .ok (.ksend sln kid it.kek it.erase it.key)
  | .error e, _ => .error e
  | .ok _, .error e => .error e

end Sys2Proof.Machine
end

