-- ==== Sys2Proof/Safety.lean ====
section
/-! DEFINITION. What counts as a good state and a safe step, in the terms the statements use. -/

namespace Sys2Proof.Machine

/-- The decoder invariant of 41_frame_decoder.md R133: in IDLE everything is clear; in RECV the buffer is within BUF_CAP, and
an overflow means that it is full. -/
def State.Inv (s : State) : Prop :=
  (s.decState = .idle → s.decBuf = [] ∧ s.decOvf = false ∧ s.decHdr = false) ∧
  (s.decState = .recv →
    admits s.bufCap s.decBuf.length = true ∧ (s.decOvf = true → s.bufCap = .bytes s.decBuf.length))

/-- The step answered a next state: neither stuck nor refused. -/
def completes (o : Host.Outcome State Fault Refusal) : Bool :=
  match o with
  | .next _ => true
  | .fault _ => false
  | .refused _ => false

/-- The event ends a pending receive without a FOOTER: expiry, FABT or reset (R132, R135). -/
def Event.endsReceive : Event → Bool
  | .command cmd _ => cmd == 0x03
  | .rxArrive _ => false
  | .rxStep => false
  | .expire => true
  | .reset => true

/-- The event is an rx step. -/
def Event.isRxStep : Event → Bool
  | .rxStep => true
  | _ => false

/-- The bytes an event appends to the rx stream. -/
def Event.arrivals : Event → List Byte
  | .rxArrive bs => bs
  | _ => []

/-- The payloads an event transmits: FENC's operand. -/
def Event.payloads : Event → List (List Byte)
  | .command cmd ops => if cmd = 0x01 then [ops.p] else []
  | _ => []

/-- The number of commands (reserved words among them) an event issues. -/
def Event.commandCount : Event → Nat
  | .command _ _ => 1
  | _ => 0

/-- The number of FDEC commands an event issues. -/
def Event.fdecCount : Event → Nat
  | .command cmd _ => if cmd = 0x02 then 1 else 0
  | _ => 0

/-- 1 while an FDEC is pending, 0 otherwise. -/
def State.pending (s : State) : Nat := if s.decState = .recv then 1 else 0

/-- The responses so far that answer an FDEC. -/
def State.fdecAnswers (s : State) : Nat := s.responses.countP (fun r => r.source == .fdec)

/-- The response ends an accepted FDEC: it answers an FDEC and is not BUSY (R120). -/
def Response.endsFdec (r : Response) : Bool := r.source == .fdec && r.status != .busy

/-- `t` keeps the receive of `s` pending: nothing that was answered ends its FDEC. -/
def StaysPending (s t : State) : Prop :=
  t.decState = .recv ∧ ∃ new, t.responses = s.responses ++ new ∧ new.countP Response.endsFdec = 0

/-- `t` has ended the receive of `s`, with exactly one response for its FDEC. -/
def EndsReceive (s t : State) : Prop :=
  t.decState = .idle ∧ ∃ new, t.responses = s.responses ++ new ∧ new.countP Response.endsFdec = 1

/-- Every response is one its command may get (R201), with the fields R74 gives it. -/
def Response.legal (r : Response) : Bool := r.source.mayAnswer r.status && r.wellShaped

end Sys2Proof.Machine
end

