-- ==== Sys2Proof/Certificates/Slice0/Obligations.lean ====
section
/-! DEFINITION. The statements for the provers. Each docstring names the rule of spec/ that the statement formalises, or the entry of
the assumption log where it rests on a choice of the model. -/

open Sys2Proof Sys2Proof.Machine

/-! The five commands: where each completes, and with what (`exec` answers exactly this next state, so every field that
the equation does not name is unchanged). -/

/-- R100: FENC appends the wire frame to tx, answers OK and changes nothing else, in every state. -/
def Obligations.FencTransmitsTheWireFrame : Prop :=
  (∀ ops : OperandRecord, decode 0x01 ops = .ok (.fenc ops.p)) ∧
  ∀ (p : List Byte) (s : State),
    exec (.fenc p) s = .next { s with
      tx := s.tx ++ ([s.cfg.hdr] ++ p.flatMap (escapeByte s.cfg) ++ [s.cfg.ftr])
      responses := s.responses ++ [⟨.fenc, .ok, .none⟩] }

/-- R120 (its acceptance and its BUSY): FDEC while IDLE starts a receive with everything clear and gives no response;
while RECV it answers BUSY and changes nothing else. -/
def Obligations.FdecStartsAReceiveOrAnswersBusy : Prop :=
  (∀ ops : OperandRecord, decode 0x02 ops = .ok .fdec) ∧
  (∀ s : State, s.decState = .idle →
    exec .fdec s = .next { s with decState := .recv, decBuf := [], decOvf := false, decHdr := false }) ∧
  ∀ s : State, s.decState = .recv →
    exec .fdec s = .next { s with responses := s.responses ++ [⟨.fdec, .busy, .none⟩] }

/-- R130: FABT ends a pending FDEC with CLOSED, discards the partial frame and then answers OK; while IDLE it only
answers OK. The streams are untouched. -/
def Obligations.FabtEndsThePendingReceive : Prop :=
  (∀ ops : OperandRecord, decode 0x03 ops = .ok .fabt) ∧
  (∀ s : State, s.decState = .recv →
    exec .fabt s = .next { s with
      decState := .idle, decBuf := [], decOvf := false, decHdr := false
      responses := s.responses ++ [⟨.fdec, .closed, .none⟩, ⟨.fabt, .ok, .none⟩] }) ∧
  ∀ s : State, s.decState = .idle →
    exec .fabt s = .next { s with responses := s.responses ++ [⟨.fabt, .ok, .none⟩] }

/-- R160: KENC answers the key record, or the first of its three errors, and changes nothing else. -/
def Obligations.KencAnswersTheKeyRecord : Prop :=
  (∀ ops : OperandRecord, decode 0x11 ops = .ok (.kenc ops.sln ops.kid ops.kek ops.erase ops.key)) ∧
  ∀ (sln kid : Half) (kek erase : Bool) (key : List Byte) (s : State),
    exec (.kenc sln kid kek erase key) s = .next { s with
      responses := s.responses ++
        [if sln = 0x0000 ∨ sln = 0xFFFF then ⟨.kenc, .validationSln, .none⟩
         else if kid = 0x0000 ∨ kid = 0xFFFF then ⟨.kenc, .validationKid, .none⟩
         else if admits s.krCap (5 + key.length) = false then ⟨.kenc, .krTooLong, .none⟩
         else ⟨.kenc, .ok, .record
           ([(if kek then 0x80 else 0x00) + (if erase then 0x20 else 0x00),
             sln.extractLsb' 8 8, sln.extractLsb' 0 8, kid.extractLsb' 8 8, kid.extractLsb' 0 8] ++ key)⟩] }

/-- R163: KDEC answers the five fields of the record, or the first of its five errors, and changes nothing else. -/
def Obligations.KdecAnswersTheKeyItem : Prop :=
  (∀ ops : OperandRecord, decode 0x12 ops = .ok (.kdec ops.r)) ∧
  ∀ (r : List Byte) (s : State),
    exec (.kdec r) s = .next { s with
      responses := s.responses ++
        [let sln : Half := (r.getD 1 0).setWidth 16 * 256 + (r.getD 2 0).setWidth 16
         let kid : Half := (r.getD 3 0).setWidth 16 * 256 + (r.getD 4 0).setWidth 16
         if admits s.krCap r.length = false then ⟨.kdec, .krTooLong, .none⟩
         else if r.length < 5 then ⟨.kdec, .krLength, .none⟩
         else if r.getD 0 0 &&& 0x5F ≠ 0 then ⟨.kdec, .krReservedFlags, .none⟩
         else if sln = 0x0000 ∨ sln = 0xFFFF then ⟨.kdec, .validationSln, .none⟩
         else if kid = 0x0000 ∨ kid = 0xFFFF then ⟨.kdec, .validationKid, .none⟩
         else ⟨.kdec, .ok, .item sln kid ((r.getD 0 0).getLsbD 7) ((r.getD 0 0).getLsbD 5) (r.drop 5)⟩] }

/-! The command map, and how a step reaches a command. -/

/-- R71: exactly five command words select a command, with the operands of R73. -/
def Obligations.ExactlyFiveWordsSelectACommand : Prop :=
  ∀ (cmd : Byte) (ops : OperandRecord) (i : Instr),
    decode cmd ops = .ok i ↔
      (cmd = 0x01 ∧ i = .fenc ops.p) ∨ (cmd = 0x02 ∧ i = .fdec) ∨ (cmd = 0x03 ∧ i = .fabt) ∨
      (cmd = 0x11 ∧ i = .kenc ops.sln ops.kid ops.kek ops.erase ops.key) ∨ (cmd = 0x12 ∧ i = .kdec ops.r)

/-- R72: the 251 other words answer ILLEGAL_CMD with no other effect, whatever the operand record, pending FDEC or not. -/
def Obligations.ReservedWordAnswersIllegalCmd : Prop :=
  (∀ cmd : Byte, reservedCmd cmd = true ↔
    cmd = 0x00 ∨ (0x04 ≤ cmd ∧ cmd ≤ 0x0F) ∨ cmd = 0x10 ∨ (0x13 ≤ cmd ∧ cmd ≤ 0x1F) ∨ (0x20 ≤ cmd ∧ cmd ≤ 0xFF)) ∧
  ((List.range 256).filter (fun n => reservedCmd (BitVec.ofNat 8 n))).length = 251 ∧
  ∀ (s : State) (cmd : Byte) (ops : OperandRecord), reservedCmd cmd = true →
    performEvent (.command cmd ops) s = .next { s with
      responses := s.responses ++ [⟨.reserved cmd, .illegalCmd, .none⟩] }

/-- A step performs exactly the next event of the schedule, on the state without it; where that event is a command that
decodes, it runs exactly that command (R58; the schedule is the model's, entry 1). -/
def Obligations.StepRunsTheDecodedCommand : Prop :=
  (∀ (s : State) (e : Event) (rest : List Event), s.schedule = e :: rest →
    step s = performEvent e { s with schedule := rest }) ∧
  ∀ (s : State) (cmd : Byte) (ops : OperandRecord) (rest : List Event) (i : Instr),
    s.schedule = .command cmd ops :: rest → decode cmd ops = .ok i →
    step s = exec i { s with schedule := rest }

/-- What the encoder presents at the port decodes to the command, with every operand; and a word that decodes is the
encoder's word (R71, R73; the record of seven ports is the model's, entry 2). -/
def Obligations.DecodeAndEncodeAgree : Prop :=
  (∀ i : Instr, decode (encode i).1 (encode i).2 = .ok i) ∧
  ∀ (cmd : Byte) (ops : OperandRecord) (i : Instr), decode cmd ops = .ok i → (encode i).1 = cmd

/-- The words of R71, written out, decode to their commands, and placed at the port they run first after reset (entries
1, 2: the operand ports are then zero or empty). -/
def Obligations.TableWordsRunAfterReset : Prop :=
  decodeTableWord 8 0b00000001 = some (.fenc []) ∧
  decodeTableWord 8 0b00000010 = some .fdec ∧
  decodeTableWord 8 0b00000011 = some .fabt ∧
  decodeTableWord 8 0b00010001 = some (.kenc 0 0 false false []) ∧
  decodeTableWord 8 0b00010010 = some (.kdec []) ∧
  decodeTableWord 8 0b00100000 = none ∧
  step (State.reset.withFetchWord 8 0b00000001) = exec (.fenc []) State.reset ∧
  step (State.reset.withFetchWord 8 0b00000010) = exec .fdec State.reset ∧
  step (State.reset.withFetchWord 8 0b00000011) = exec .fabt State.reset ∧
  step (State.reset.withFetchWord 8 0b00010001) = exec (.kenc 0 0 false false []) State.reset ∧
  step (State.reset.withFetchWord 8 0b00010010) = exec (.kdec []) State.reset

/-! The receive events. -/

/-- R122: a HEADER discards the partial frame and any overflow, sets `dec_hdr` and stays in RECV. -/
def Obligations.HeaderByteResynchronises : Prop :=
  ∀ (s : State) (rest : List Byte), s.decState = .recv → s.rx = s.cfg.hdr :: rest →
    performEvent .rxStep s = .next { s with rx := rest, decBuf := [], decOvf := false, decHdr := true }

/-- R123 and R126: a FOOTER forms the response from the state as it stands, overflow first, whether or not a HEADER came,
and the decoder is left clear in IDLE (R127). -/
def Obligations.FooterByteCompletesTheReceive : Prop :=
  ∀ (s : State) (rest : List Byte), s.decState = .recv → s.rx = s.cfg.ftr :: rest →
    performEvent .rxStep s = .next { s with
      rx := rest, decState := .idle, decBuf := [], decOvf := false, decHdr := false
      responses := s.responses ++
        [if s.decOvf = true then ⟨.fdec, .framingOverflow, .none⟩
         else if (unescape s.cfg s.decBuf).1 = .ok then
           ⟨.fdec, .ok, .frame (unescape s.cfg s.decBuf).2 s.decHdr⟩
         else ⟨.fdec, (unescape s.cfg s.decBuf).1, .none⟩] }

/-- R124: any other byte, ESC and the placeholder values included, is stored, or dropped with `dec_ovf` set once `dec_buf`
is at BUF_CAP. -/
def Obligations.DataByteIsStoredOrOverflows : Prop :=
  ∀ (s : State) (b : Byte) (rest : List Byte),
    s.decState = .recv → s.rx = b :: rest → b ≠ s.cfg.hdr → b ≠ s.cfg.ftr →
    ((s.bufCap = .unlimited ∨ ∃ c, s.bufCap = .bytes c ∧ s.decBuf.length < c) →
      performEvent .rxStep s = .next { s with rx := rest, decBuf := s.decBuf ++ [b] }) ∧
    (∀ c, s.bufCap = .bytes c → c ≤ s.decBuf.length →
      performEvent .rxStep s = .next { s with rx := rest, decOvf := true })

/-- R128: expiry is possible at any point of a receive; it answers TIMEOUT, discards the partial frame and leaves the rx
stream. -/
def Obligations.ExpiryEndsTheReceiveWithTimeout : Prop :=
  ∀ s : State, s.decState = .recv →
    performEvent .expire s = .next { s with
      decState := .idle, decBuf := [], decOvf := false, decHdr := false
      responses := s.responses ++ [⟨.fdec, .timeout, .none⟩] }

/-- R230 and R231: reset ends a pending FDEC with CLOSED and leaves the decoder clear; CFG and both streams keep their
values. -/
def Obligations.ResetEventClearsTheDecoder : Prop :=
  ∀ s : State,
    performEvent .reset s = .next { s with
      decState := .idle, decBuf := [], decOvf := false, decHdr := false
      responses := s.responses ++ (if s.decState = .recv then [⟨.fdec, .closed, .none⟩] else []) }

/-- R131: while IDLE no rx step is enabled, and a step changes the rx stream only by appending what arrives. -/
def Obligations.NoRxAccessWhileIdle : Prop :=
  (∀ (s : State) (later : List Event), s.decState = .idle → s.schedule = .rxStep :: later →
    step s = .fault .rxStepNotEnabled) ∧
  ∀ s t : State, s.decState = .idle → step s = .next t →
    t.rx = s.rx ++ (match s.schedule with | [] => [] | e :: _ => e.arrivals)

/-- R28: bytes that arrive join the tail of the rx stream, whatever the decoder does, and nothing else changes. -/
def Obligations.ArrivingBytesJoinTheTail : Prop :=
  ∀ (s : State) (bs : List Byte), performEvent (.rxArrive bs) s = .next { s with rx := s.rx ++ bs }

/-- Where nothing is scheduled the block waits in IDLE; in RECV with no byte waiting the deadline expires (R134), and with
a byte waiting either of the two enabled events is taken (R129). The model's own schedule: entry 7. -/
def Obligations.UnscheduledStepIsAnEnabledEvent : Prop :=
  ∀ s : State, s.schedule = [] →
    (s.decState = .idle → step s = .next s) ∧
    (s.decState = .recv → s.rx = [] → step s = .next (s.endReceive (.timeout, .none))) ∧
    (∀ (b : Byte) (rest : List Byte), s.decState = .recv → s.rx = b :: rest →
      step s = .next (({ s with draws := s.draws + 1 } : State).endReceive (.timeout, .none)) ∨
      step s = .next (({ s with draws := s.draws + 1, rx := rest } : State).receiveByte b))

/-! Reset, instantiation, and the tables. -/

/-- 10_state.md section 7: the values the spec gives for reset, and CFG as the parameter. (The empty streams are the
model's choice, entry 4, and are not stated.) -/
def Obligations.ResetHoldsTheStatedValues : Prop :=
  State.reset.decState = .idle ∧ State.reset.decBuf = [] ∧ State.reset.decOvf = false ∧ State.reset.decHdr = false ∧
  State.reset.cfg = Config.instantiation.params.family ∧ State.reset.deadlineArmed = false

/-- R22: a FAMILY that fails any of the three checks is refused, and one that passes them, with capacities within R7 and
R8, gives a block in which CFG is that FAMILY. That a well-formed FAMILY with BUF_CAP below 1 or KR_CAP below 5 is refused,
and under which name, is the model's choice (entry 3): R7 and R8 give the range alone. -/
def Obligations.IllFormedFamilyIsRefused : Prop :=
  ∀ p : Params,
    (p.family.wf = true ↔
      (p.family.hdr ≠ p.family.ftr ∧ p.family.hdr ≠ p.family.esc ∧ p.family.ftr ≠ p.family.esc) ∧
      (p.family.phHdr ≠ p.family.phFtr ∧ p.family.phHdr ≠ p.family.phEsc ∧ p.family.phFtr ≠ p.family.phEsc) ∧
      (∀ ph, ph = p.family.phHdr ∨ ph = p.family.phFtr ∨ ph = p.family.phEsc →
        ph ≠ p.family.hdr ∧ ph ≠ p.family.ftr)) ∧
    (p.family.wf = false → State.instantiate p = .refused .illFormedFamily) ∧
    (p.family.wf = true → (p.bufCap.atLeast 1 && p.krCap.atLeast 5) = false →
      State.instantiate p = .refused .illFormedCapacity) ∧
    (p.family.wf = true → (p.bufCap.atLeast 1 && p.krCap.atLeast 5) = true →
      ∃ t, State.instantiate p = .next t ∧ t.cfg = p.family ∧ t.bufCap = p.bufCap ∧ t.krCap = p.krCap ∧
        t.decState = .idle)

/-- R101: the escape table is total, and its rows are exclusive under WF_FAMILY; with the source's example constants. -/
def Obligations.EscapeTableHasFourRows : Prop :=
  (∀ f : Family, f.wf = true →
    escapeByte f f.hdr = [f.esc, f.phHdr] ∧ escapeByte f f.ftr = [f.esc, f.phFtr] ∧
    escapeByte f f.esc = [f.esc, f.phEsc] ∧
    ∀ b : Byte, b ≠ f.hdr → b ≠ f.ftr → b ≠ f.esc → escapeByte f b = [b]) ∧
  wireFrame Config.testFamily [0x01, 0x61, 0x02] = [0x61, 0x01, 0x70, 0x62, 0x02, 0x63]

/-- R79: after an ESC in the escaped body each placeholder gives its byte, and any other value FRAMING_BAD_PLACEHOLDER; the
rows are exclusive under WF_FAMILY. First the table, then the unescape pass that applies it, whatever it has written
before and whatever follows. -/
def Obligations.PlaceholderTableHasFourRows : Prop :=
  ∀ f : Family, f.wf = true →
    substituted f f.phHdr = some f.hdr ∧ substituted f f.phFtr = some f.ftr ∧ substituted f f.phEsc = some f.esc ∧
    (∀ c : Byte, c ≠ f.phHdr → c ≠ f.phFtr → c ≠ f.phEsc → substituted f c = none) ∧
    ∀ out rest : List Byte,
      unescapeFrom f out (f.esc :: f.phHdr :: rest) = unescapeFrom f (out ++ [f.hdr]) rest ∧
      unescapeFrom f out (f.esc :: f.phFtr :: rest) = unescapeFrom f (out ++ [f.ftr]) rest ∧
      unescapeFrom f out (f.esc :: f.phEsc :: rest) = unescapeFrom f (out ++ [f.esc]) rest ∧
      ∀ c : Byte, c ≠ f.phHdr → c ≠ f.phFtr → c ≠ f.phEsc →
        unescapeFrom f out (f.esc :: c :: rest) = (.framingBadPlaceholder, [])

/-- R77: HEADER, FOOTER and DATA are told apart by CFG, and ESC and every placeholder value are DATA. -/
def Obligations.ReceiveClassesAreExclusive : Prop :=
  ∀ f : Family, f.wf = true →
    (∀ b : Byte, (classOf f b = .header ↔ b = f.hdr) ∧ (classOf f b = .footer ↔ b = f.ftr) ∧
      (classOf f b = .data ↔ b ≠ f.hdr ∧ b ≠ f.ftr)) ∧
    classOf f f.esc = .data ∧ classOf f f.phHdr = .data ∧ classOf f f.phFtr = .data ∧ classOf f f.phEsc = .data

/-- R75's codes, name by name, and S10: a status byte that no rule produces is refused. -/
def Obligations.StatusCodesAreRead : Prop :=
  Status.code .ok = 0x00 ∧ Status.code .framingBadPlaceholder = 0x01 ∧ Status.code .framingTrailingEscape = 0x02 ∧
  Status.code .framingOverflow = 0x03 ∧ Status.code .timeout = 0x04 ∧ Status.code .closed = 0x05 ∧
  Status.code .validationSln = 0x06 ∧ Status.code .validationKid = 0x07 ∧ Status.code .krLength = 0x08 ∧
  Status.code .krReservedFlags = 0x09 ∧ Status.code .krTooLong = 0x0A ∧ Status.code .busy = 0x0B ∧
  Status.code .illegalCmd = 0x0C ∧
  (∀ st : Status, st ∈ Status.all) ∧
  (∀ st : Status, Status.ofCode st.code = .ok st) ∧
  ∀ b : Byte, 0x0D ≤ b → Status.ofCode b = .error (.reservedStatus b)

/-- R83: the flag byte, its four values and the reserved bits. -/
def Obligations.FlagByteHasFourValues : Prop :=
  flagByte false false = 0x00 ∧ flagByte false true = 0x20 ∧ flagByte true false = 0x80 ∧ flagByte true true = 0xA0 ∧
  (∀ kek erase : Bool, flagByte kek erase = (if kek then 1 else 0) * 0x80 + (if erase then 1 else 0) * 0x20) ∧
  reservedFlagMask = 0x5F ∧ ∀ n : Nat, reservedFlagMask.getLsbD n = true ↔ n = 6 ∨ n ≤ 4

/-- R161 and R53, R166: the range check, and exact big-endian composition. -/
def Obligations.HalfArithmeticIsExact : Prop :=
  (∀ v : Half, valid16 v = true ↔ v ≠ 0x0000 ∧ v ≠ 0xFFFF) ∧
  (∀ v : Half, be16 (hi8 v) (lo8 v) = v) ∧
  ∀ a b : Byte, (be16 a b).toNat = a.toNat * 256 + b.toNat ∧ hi8 (be16 a b) = a ∧ lo8 (be16 a b) = b

/-- R162: what the host must reject before it issues KENC, and what reaches the 16-bit port as it is. A negative integer
is the model's reading (entry 13) and is not stated. -/
def Obligations.HostValuesBeyondThePortAreRejected : Prop :=
  (∀ t : String, HostValue.present (.text t) = .error .typeError) ∧
  (∀ n : Nat, 0xFFFF < n → HostValue.present (.int n) = .error .rangeError) ∧
  ∀ v : Half, HostValue.present (.int v.toNat) = .ok v

/-! Laws of the wire frame and of the key record. -/

/-- R102: the length of a wire frame, for every constant set. -/
def Obligations.WireFrameLength : Prop :=
  ∀ (f : Family) (p : List Byte),
    (wireFrame f p).length = 2 + p.length + p.countP (fun b => b == f.hdr || b == f.ftr || b == f.esc)

/-- R103: no delimiter inside a body, so a receiver of a wire frame sees exactly one HEADER, at index 0, and exactly one
FOOTER, at the last index. -/
def Obligations.WireFrameHasOneHeaderAndOneFooter : Prop :=
  ∀ (f : Family) (p : List Byte), f.wf = true →
    f.hdr ∉ escapedBody f p ∧ f.ftr ∉ escapedBody f p ∧
    (∀ n : Nat, (wireFrame f p)[n]? = some f.hdr ↔ n = 0) ∧
    ∀ n : Nat, (wireFrame f p)[n]? = some f.ftr ↔ n + 1 = (wireFrame f p).length

/-- R104: a body splits into escape tokens in one way only, a token starts with ESC exactly if it has two bytes, and the
unescape pass gives the payload back. -/
def Obligations.BodyParsesInOneWay : Prop :=
  ∀ f : Family, f.wf = true →
    (∀ b : Byte, (escapeByte f b).head? = some f.esc ↔ (escapeByte f b).length = 2) ∧
    (∀ (p : List Byte) (tokens : List (List Byte)), (∀ t ∈ tokens, ∃ b, t = escapeByte f b) →
      tokens.flatten = escapedBody f p → tokens = p.map (escapeByte f)) ∧
    ∀ p : List Byte, unescape f (escapedBody f p) = (.ok, p)

/-- R125's properties: the leftmost fault decides, whatever follows it; a trailing ESC is a fault; the output is no longer
than the buffer. -/
def Obligations.LeftmostEscapeFaultDecides : Prop :=
  ∀ f : Family, f.wf = true →
    (∀ (p rest : List Byte) (c : Byte), c ≠ f.phHdr → c ≠ f.phFtr → c ≠ f.phEsc →
      unescape f (escapedBody f p ++ f.esc :: c :: rest) = (.framingBadPlaceholder, [])) ∧
    (∀ p : List Byte, unescape f (escapedBody f p ++ [f.esc]) = (.framingTrailingEscape, [])) ∧
    ∀ s : List Byte, (unescape f s).2.length ≤ s.length

/-- R22: the three checks of WF_FAMILY are exactly the conditions under which every payload comes back from its own wire
frame, here with no buffer limit and by the closed form of R135. -/
def Obligations.WfFamilyIsExactlyTheRoundTripCondition : Prop :=
  ∀ f : Family,
    f.wf = true ↔ ∀ p : List Byte, receiveFrom f .unlimited (wireFrame f p) = some ((.ok, .frame p true), [])

/-- R165: KDEC undoes KENC, KENC undoes KDEC, and both are one to one where they answer OK. -/
def Obligations.KeyRecordRoundTrip : Prop :=
  ∀ s : State,
    (∀ (sln kid : Half) (kek erase : Bool) (key : List Byte), valid16 sln = true → valid16 kid = true →
      admits s.krCap (5 + key.length) = true →
      ∃ r, exec (.kenc sln kid kek erase key) s = .next (s.respond .kenc .ok (.record r)) ∧
        exec (.kdec r) s = .next (s.respond .kdec .ok (.item sln kid kek erase key))) ∧
    (∀ (r : List Byte) (sln kid : Half) (kek erase : Bool) (key : List Byte),
      exec (.kdec r) s = .next (s.respond .kdec .ok (.item sln kid kek erase key)) →
      exec (.kenc sln kid kek erase key) s = .next (s.respond .kenc .ok (.record r))) ∧
    (∀ (r r' : List Byte) (sln kid : Half) (kek erase : Bool) (key : List Byte),
      exec (.kdec r) s = .next (s.respond .kdec .ok (.item sln kid kek erase key)) →
      exec (.kdec r') s = .next (s.respond .kdec .ok (.item sln kid kek erase key)) → r = r') ∧
    ∀ (sln kid sln' kid' : Half) (kek erase kek' erase' : Bool) (key key' r : List Byte),
      exec (.kenc sln kid kek erase key) s = .next (s.respond .kenc .ok (.record r)) →
      exec (.kenc sln' kid' kek' erase' key') s = .next (s.respond .kenc .ok (.record r)) →
      sln = sln' ∧ kid = kid' ∧ kek = kek' ∧ erase = erase' ∧ key = key'

/-! Promises of the whole machine: for every step of every state. -/

/-- R133, the invariant: every step keeps it. -/
def Obligations.EveryStepKeepsTheDecoderInvariant : Prop :=
  ∀ s t : State, s.Inv → step s = .next t → t.Inv

/-- R133's invariant holds right after reset. -/
def Obligations.ResetMeetsTheDecoderInvariant : Prop := State.reset.Inv

/-- R21: no step changes CFG, nor the other parameters (R7 to R9). -/
def Obligations.CfgIsNeverWritten : Prop :=
  ∀ s t : State, step s = .next t → t.inst = s.inst ∧ t.cfg = s.cfg

/-- R29 and R56: tx only grows, and only by the wire frame of an FENC. -/
def Obligations.OnlyFencTransmits : Prop :=
  ∀ s t : State, step s = .next t →
    t.tx = s.tx ++ (match s.schedule with | [] => [] | e :: _ => e.payloads.flatMap (wireFrame s.cfg))

/-- R24: a receive starts only by an FDEC, and ends only by a FOOTER, expiry, FABT or reset, each with its own response. An
rx step and expiry are the next event of the schedule, or the block's own move where nothing is scheduled (entries 1, 7). -/
def Obligations.ReceiveStartsAndEndsOnlyByItsCauses : Prop :=
  ∀ s t : State, step s = .next t →
    (s.decState = .idle → t.decState = .recv →
      ∃ ops rest, s.schedule = .command 0x02 ops :: rest ∧ t.responses = s.responses) ∧
    (s.decState = .recv → t.decState = .idle →
      (∃ rest, (s.schedule = [] ∨ ∃ later, s.schedule = .rxStep :: later) ∧ s.rx = s.cfg.ftr :: rest ∧ t.rx = rest ∧
        t.responses = s.responses ++
          [⟨.fdec, (completionResult s.cfg s.decBuf s.decOvf s.decHdr).1,
            (completionResult s.cfg s.decBuf s.decOvf s.decHdr).2⟩]) ∨
      ((s.schedule = [] ∨ ∃ later, s.schedule = .expire :: later) ∧ t.rx = s.rx ∧
        t.responses = s.responses ++ [⟨.fdec, .timeout, .none⟩]) ∨
      (∃ ops rest, s.schedule = .command 0x03 ops :: rest ∧ t.rx = s.rx ∧
        t.responses = s.responses ++ [⟨.fdec, .closed, .none⟩, ⟨.fabt, .ok, .none⟩]) ∨
      (∃ rest, s.schedule = .reset :: rest ∧ t.rx = s.rx ∧
        t.responses = s.responses ++ [⟨.fdec, .closed, .none⟩]))

/-- R121: every command but FABT, reserved words included, completes while an FDEC is pending and leaves the decoder and
the rx stream as they are. -/
def Obligations.PendingReceiveSurvivesOtherCommands : Prop :=
  ∀ (s : State) (cmd : Byte) (ops : OperandRecord) (rest : List Event),
    s.decState = .recv → s.schedule = .command cmd ops :: rest → cmd ≠ 0x03 →
    ∃ t, step s = .next t ∧ t.schedule = rest ∧ t.decState = .recv ∧ t.decBuf = s.decBuf ∧ t.decOvf = s.decOvf ∧
      t.decHdr = s.decHdr ∧ t.rx = s.rx

/-- R74 and R133: responses are only added, and each command gets exactly one: what has been answered and what is pending
together grow by the commands issued; the same for FDEC alone. -/
def Obligations.EveryCommandGetsExactlyOneResponse : Prop :=
  ∀ s t : State, step s = .next t →
    (∃ new, t.responses = s.responses ++ new) ∧
    t.responses.length + t.pending =
      s.responses.length + s.pending + (match s.schedule with | [] => 0 | e :: _ => e.commandCount) ∧
    t.fdecAnswers + t.pending =
      s.fdecAnswers + s.pending + (match s.schedule with | [] => 0 | e :: _ => e.fdecCount)

/-- R201 and R74: every response that a step gives is one its command may get, with exactly that command's fields. -/
def Obligations.OnlyTheListedResponsesAreGiven : Prop :=
  ∀ s t : State, step s = .next t →
    ∃ new, t.responses = s.responses ++ new ∧ ∀ r ∈ new, r.legal = true

/-- R33: no status is kept in the block. What has been answered before changes nothing in a step but the list of
responses itself (the list is the model's, entry 5). -/
def Obligations.EarlierResponsesAreNeverRead : Prop :=
  ∀ (s : State) (earlier : List Response),
    (∀ t, step s = .next t →
      step { s with responses := earlier ++ s.responses } = .next { t with responses := earlier ++ t.responses }) ∧
    ∀ r, step s = .fault r → step { s with responses := earlier ++ s.responses } = .fault r

/-- R167 and R35: the response of FENC, KENC and KDEC depends on the operands and the instantiation alone, and KENC and
KDEC change nothing but the responses. -/
def Obligations.EncoderAndKeyUnitKeepNoState : Prop :=
  ∀ s u : State, s.inst = u.inst →
    (∀ p, ∃ bytes st fs,
      exec (.fenc p) s = .next { s.respond .fenc st fs with tx := s.tx ++ bytes } ∧
      exec (.fenc p) u = .next { u.respond .fenc st fs with tx := u.tx ++ bytes }) ∧
    (∀ sln kid kek erase key, ∃ st fs,
      exec (.kenc sln kid kek erase key) s = .next (s.respond .kenc st fs) ∧
      exec (.kenc sln kid kek erase key) u = .next (u.respond .kenc st fs)) ∧
    ∀ r, ∃ st fs,
      exec (.kdec r) s = .next (s.respond .kdec st fs) ∧ exec (.kdec r) u = .next (u.respond .kdec st fs)

/-- R61: FABT is idempotent: a second one finds IDLE and only answers OK. -/
def Obligations.SecondAbortDoesNothing : Prop :=
  ∀ s t : State, exec .fabt s = .next t → exec .fabt t = .next (t.respond .fabt .ok .none)

/-- R129, R200 and R213: a scheduled event answers a next state exactly where it is enabled; nothing is ever refused; and
a step with nothing scheduled always answers (entries 6, 7). -/
def Obligations.EnabledEventsAlwaysComplete : Prop :=
  (∀ (s : State) (e : Event) (later : List Event), s.schedule = e :: later → completes (step s) = e.enabled s) ∧
  (∀ s : State, s.schedule = [] → completes (step s) = true) ∧
  ∀ (s : State) (r : Refusal), step s ≠ .refused r

/-! Runs. -/

/-- R135, the closed form of one receive: an FDEC is accepted, other events that do not end the receive come in between,
every rx step finds a byte waiting, and the bytes pulled are `seg` and then the first FOOTER. -/
def Obligations.ReceiveHasTheClosedForm : Prop :=
  ∀ (s : State) (ops : OperandRecord) (between later : List Event) (seg rest : List Byte),
    s.decState = .idle →
    s.schedule = .command 0x02 ops :: (between ++ .rxStep :: later) →
    (∀ e ∈ between, e.endsReceive = false) →
    s.cfg.ftr ∉ seg →
    s.rx ++ between.flatMap Event.arrivals = seg ++ s.cfg.ftr :: rest →
    between.countP Event.isRxStep = seg.length →
    (∀ before after, between ++ [Event.rxStep] = before ++ Event.rxStep :: after →
      before.countP Event.isRxStep < s.rx.length + (before.flatMap Event.arrivals).length) →
    ∃ t others, runSteps (between.length + 2) s = .next t ∧ t.schedule = later ∧ t.rx = rest ∧ t.decState = .idle ∧
      t.responses = s.responses ++ others ++
        [⟨.fdec, (closedReceive s.cfg s.bufCap seg).1, (closedReceive s.cfg s.bufCap seg).2⟩] ∧
      ∀ r ∈ others, r.endsFdec = false

/-- R132, the round-trip law: whatever the decoder holds, a pending FDEC that meets a wire frame on rx, with no expiry, FABT
or reset before its FOOTER, answers OK with the payload and HDR_SEEN = 1. -/
def Obligations.WireFrameIsReceivedBack : Prop :=
  ∀ (s : State) (p rest : List Byte) (between later : List Event),
    s.decState = .recv → admits s.bufCap (escapedBody s.cfg p).length = true →
    s.rx = wireFrame s.cfg p ++ rest →
    s.schedule = between ++ .rxStep :: later →
    (∀ e ∈ between, e.endsReceive = false) →
    between.countP Event.isRxStep + 1 = (wireFrame s.cfg p).length →
    ∃ t others, runSteps (between.length + 1) s = .next t ∧ t.schedule = later ∧ t.decState = .idle ∧
      t.rx = rest ++ between.flatMap Event.arrivals ∧
      t.responses = s.responses ++ others ++ [⟨.fdec, .ok, .frame p true⟩] ∧
      ∀ r ∈ others, r.endsFdec = false

/-- R62 and R55: successive FDECs return the frames that wait on rx in their order, one each, and read nothing beyond the
last one's FOOTER. -/
def Obligations.FramesAreReceivedInOrder : Prop :=
  ∀ (s : State) (ps : List (List Byte)) (rest : List Byte) (later : List Event),
    s.decState = .idle →
    (∀ p ∈ ps, admits s.bufCap (escapedBody s.cfg p).length = true) →
    s.rx = ps.flatMap (wireFrame s.cfg) ++ rest →
    s.schedule = ps.flatMap (fun p => .command 0x02 OperandRecord.zero ::
      List.replicate (wireFrame s.cfg p).length .rxStep) ++ later →
    ∃ n t, runSteps n s = .next t ∧ t.schedule = later ∧ t.decState = .idle ∧ t.rx = rest ∧ t.tx = s.tx ∧
      t.responses = s.responses ++ ps.map (fun p => ⟨.fdec, .ok, .frame p true⟩)

/-- R134 in runs of `step`: a receive with nothing more scheduled ends, with its one response, within one step more than the
bytes that wait, whichever way the free choice falls (entry 7). -/
def Obligations.ReceiveAlwaysEnds : Prop :=
  ∀ s : State, s.decState = .recv → s.schedule = [] →
    ∃ n t r, n ≤ s.rx.length + 1 ∧ runSteps n s = .next t ∧ t.decState = .idle ∧
      t.responses = s.responses ++ [r] ∧ r.endsFdec = true

/-- Program P1 of 95_test_vectors.md for every key item and family: KSEND puts the record's wire frame on tx (R87), and a
block that gets it on rx answers FDEC with the record and KDEC with the five values (R132, R165). -/
def Obligations.KeyRecordCrossesTheLink : Prop :=
  ∀ (s u : State) (sln kid : Half) (kek erase : Bool) (key rest : List Byte) (later : List Event),
    valid16 sln = true → valid16 kid = true → admits s.krCap (5 + key.length) = true →
    u.inst = s.inst → u.decState = .idle →
    admits u.bufCap (escapedBody u.cfg (keyRecord sln kid kek erase key)).length = true →
    u.rx = wireFrame u.cfg (keyRecord sln kid kek erase key) ++ rest →
    u.schedule = .command 0x02 OperandRecord.zero ::
      (List.replicate (wireFrame u.cfg (keyRecord sln kid kek erase key)).length .rxStep ++
        .command 0x12 { OperandRecord.zero with r := keyRecord sln kid kek erase key } :: later) →
    (∃ t, performPseudo (.ksend sln kid kek erase key) s = .next t ∧
      t.tx = s.tx ++ wireFrame s.cfg (keyRecord sln kid kek erase key)) ∧
    ∃ n v, runSteps n u = .next v ∧ v.schedule = later ∧ v.rx = rest ∧
      v.responses = u.responses ++
        [⟨.fdec, .ok, .frame (keyRecord sln kid kek erase key) true⟩, ⟨.kdec, .ok, .item sln kid kek erase key⟩]

/-- R202 and R87: a KSEND whose KENC fails transmits nothing: it adds KENC's one response and nothing else. -/
def Obligations.FailedKsendSendsNothing : Prop :=
  ∀ (s : State) (sln kid : Half) (kek erase : Bool) (key : List Byte),
    (valid16 sln = false ∨ valid16 kid = false ∨ admits s.krCap (5 + key.length) = false) →
    ∃ st, (st = .validationSln ∨ st = .validationKid ∨ st = .krTooLong) ∧
      performPseudo (.ksend sln kid kek erase key) s = .next (s.raise .kenc st)

/-- R87: FXCH is FENC and then FDEC, and KRECV goes on with KDEC of the payload once its FDEC has answered OK, with no
second command on any other status. Issued while an FDEC is pending (R121), FXCH transmits and its FDEC answers BUSY, and
KRECV is an FDEC that answers BUSY and issues no KDEC; the pending FDEC is unaffected. -/
def Obligations.PseudoInstructionsExpand : Prop :=
  (∀ (s : State) (p : List Byte), s.decState = .idle →
    performPseudo (.fxch p) s = .next { s with
      tx := s.tx ++ wireFrame s.cfg p, responses := s.responses ++ [⟨.fenc, .ok, .none⟩]
      decState := .recv, decBuf := [], decOvf := false, decHdr := false }) ∧
  (∀ (s : State) (p : List Byte), s.decState = .recv →
    performPseudo (.fxch p) s = .next { s with
      tx := s.tx ++ wireFrame s.cfg p
      responses := s.responses ++ [⟨.fenc, .ok, .none⟩, ⟨.fdec, .busy, .none⟩] }) ∧
  (∀ s : State, s.decState = .idle → performPseudo .krecv s = exec .fdec s) ∧
  (∀ s : State, s.decState = .recv →
    performPseudo .krecv s = .next { s with responses := s.responses ++ [⟨.fdec, .busy, .none⟩] }) ∧
  (∀ (s : State) (payload : List Byte) (h : Bool),
    resumePseudo .krecv ⟨.fdec, .ok, .frame payload h⟩ s = exec (.kdec payload) s) ∧
  ∀ (s : State) (st : Status) (fs : ResultFields), st ≠ .ok → resumePseudo .krecv ⟨.fdec, st, fs⟩ s = .next s

/-- R86: the line written for a command reads back as that command, with every operand, and its values pass the 16-bit
ports unchanged. -/
def Obligations.AssemblerLineReadsBack : Prop :=
  ∀ i : Instr, parseLine (writeCommand i) = some (.command (hostForm i)) ∧ (hostForm i).present = .ok i

/-! Progress (R134): the runs of `step`, and the executions without end. -/

/-- R134 in runs of `step`, whatever is scheduled: a receive ends with its one response within one step more than the events
that are scheduled and the bytes that wait or arrive, unless the schedule asks for an rx step with no byte waiting, where the
model is stuck (entries 1, 6, 7). -/
def Obligations.ReceiveEndsUnderEverySchedule : Prop :=
  ∀ s : State, s.decState = .recv →
    ∃ n, n ≤ s.schedule.length + s.rx.length + (s.schedule.flatMap Event.arrivals).length + 1 ∧
      (runSteps n s = .fault .rxStepNotEnabled ∨
       ∃ t new, runSteps n s = .next t ∧ t.decState = .idle ∧
         t.responses = s.responses ++ new ∧ new.countP Response.endsFdec = 1)

/-- R134: in every execution in which expiry is weakly fair, however long the host goes on issuing and bytes go on arriving, a
pending FDEC ends with exactly one response, by an rx step, FABT or reset, and if never by these then by expiry. -/
def Obligations.FairExecutionsAnswerEveryFdec : Prop :=
  ∀ x : Execution, x.fair → ∀ n, (x.state n).decState = .recv →
    ∃ m, n ≤ m ∧ (∀ k, n ≤ k → k ≤ m → (x.state k).decState = .recv) ∧ (x.state (m + 1)).decState = .idle ∧
      (x.event m = .rxStep ∨ (∃ ops, x.event m = .command 0x03 ops) ∨ x.event m = .reset ∨ x.event m = .expire) ∧
      ∃ new, (x.state (m + 1)).responses = (x.state n).responses ++ new ∧ new.countP Response.endsFdec = 1

/-- R134 excludes no finite behaviour: whatever events have been taken one after the other, some execution in which expiry is
weakly fair begins with them. -/
def Obligations.FairnessExcludesNoFiniteRun : Prop :=
  ∀ (events : List Event) (s t : State), performEvents events s = .next t →
    ∃ x : Execution, x.fair ∧ x.state 0 = s ∧ x.state events.length = t ∧
      ∀ n, n < events.length → events[n]? = some (x.event n)

/-- Every beginning of an execution is a run of `step` on a schedule that lists its events (entry 1). -/
def Obligations.ExecutionsBeginAsRunsOfTheStep : Prop :=
  ∀ x : Execution, x.runs → ∀ (n : Nat) (later : List Event),
    runSteps n { x.state 0 with schedule := (List.range n).map x.event ++ later } =
      .next { x.state n with schedule := later }
end

