-- ==== Sys2Proof/Laws/Framing.lean ====
section
/-! SUPPORT. What the pure framing functions can do, said once each. -/

namespace Sys2Proof.Machine

/-- A token is the two bytes of an escape sequence exactly for a special byte. -/
theorem escapeByte_cases (f : Family) (b : Byte) :
    (∃ c, escapeByte f b = [f.esc, c] ∧ isSpecial f b = true) ∨ (escapeByte f b = [b] ∧ isSpecial f b = false) := by
  unfold escapeByte isSpecial
  split
  · next h => exact .inl ⟨f.phHdr, rfl, by simp [h]⟩
  · split
    · next h => exact .inl ⟨f.phFtr, rfl, by simp [h]⟩
    · split
      · next h => exact .inl ⟨f.phEsc, rfl, by simp [h]⟩
      · next h1 h2 h3 => exact .inr ⟨rfl, by simp [h1, h2, h3]⟩

@[simp] theorem escapedBody_nil (f : Family) : escapedBody f [] = [] := rfl

theorem escapedBody_cons (f : Family) (b : Byte) (p : List Byte) :
    escapedBody f (b :: p) = escapeByte f b ++ escapedBody f p := rfl

theorem escapedBody_append (f : Family) (p q : List Byte) :
    escapedBody f (p ++ q) = escapedBody f p ++ escapedBody f q := List.flatMap_append

/-- A header byte is classed as HEADER, and no other byte is (R77). -/
theorem classOf_header_iff (f : Family) (b : Byte) : classOf f b = .header ↔ b = f.hdr := by
  unfold classOf
  by_cases h : b = f.hdr
  · simp [h]
  · by_cases h2 : b = f.ftr <;> simp_all

@[simp] theorem unescapeFrom_nil (f : Family) (out : List Byte) : unescapeFrom f out [] = (.ok, out) := rfl

theorem unescapeFrom_data (f : Family) (out : List Byte) {b : Byte} (rest : List Byte) (h : b ≠ f.esc) :
    unescapeFrom f out (b :: rest) = unescapeFrom f (out ++ [b]) rest := by
  rw [unescapeFrom.eq_def]
  simp [h]

theorem unescapeFrom_trailing (f : Family) (out : List Byte) :
    unescapeFrom f out [f.esc] = (.framingTrailingEscape, []) := by
  simp [unescapeFrom]

theorem unescapeFrom_escape (f : Family) (out : List Byte) {c d : Byte} (rest : List Byte)
    (h : substituted f c = some d) :
    unescapeFrom f out (f.esc :: c :: rest) = unescapeFrom f (out ++ [d]) rest := by
  simp [unescapeFrom, h]

theorem unescapeFrom_bad (f : Family) (out : List Byte) {c : Byte} (rest : List Byte) (h : substituted f c = none) :
    unescapeFrom f out (f.esc :: c :: rest) = (.framingBadPlaceholder, []) := by
  simp [unescapeFrom, h]

/-- A pass that succeeds is reported as OK with its output (R126). -/
theorem frameResult_ok (out : List Byte) (h : Bool) : frameResult (.ok, out) h = (.ok, .frame out h) := rfl

theorem completionResult_overflow (f : Family) (buf : List Byte) (hdr : Bool) :
    completionResult f buf true hdr = (.framingOverflow, .none) := rfl

theorem completionResult_body (f : Family) (buf : List Byte) (hdr : Bool) :
    completionResult f buf false hdr = frameResult (unescape f buf) hdr := rfl

end Sys2Proof.Machine
end

