-- ==== Sys2Proof/Laws/State.lean ====
section
/-! SUPPORT. The field lemmas of every state update: one per field, true by rfl, so that no later proof unfolds an update. -/

namespace Sys2Proof.Machine

/-! Fields after `startReceive`. -/

@[simp] theorem State.startReceive_inst (s : State) : (s.startReceive).inst = s.inst := rfl
@[simp] theorem State.startReceive_decState (s : State) : (s.startReceive).decState = .recv := rfl
@[simp] theorem State.startReceive_decBuf (s : State) : (s.startReceive).decBuf = [] := rfl
@[simp] theorem State.startReceive_decOvf (s : State) : (s.startReceive).decOvf = false := rfl
@[simp] theorem State.startReceive_decHdr (s : State) : (s.startReceive).decHdr = false := rfl
@[simp] theorem State.startReceive_rx (s : State) : (s.startReceive).rx = s.rx := rfl
@[simp] theorem State.startReceive_tx (s : State) : (s.startReceive).tx = s.tx := rfl
@[simp] theorem State.startReceive_responses (s : State) : (s.startReceive).responses = s.responses := rfl
@[simp] theorem State.startReceive_schedule (s : State) : (s.startReceive).schedule = s.schedule := rfl
@[simp] theorem State.startReceive_draws (s : State) : (s.startReceive).draws = s.draws := rfl
@[simp] theorem State.startReceive_cfg (s : State) : (s.startReceive).cfg = s.cfg := rfl
@[simp] theorem State.startReceive_bufCap (s : State) : (s.startReceive).bufCap = s.bufCap := rfl
@[simp] theorem State.startReceive_krCap (s : State) : (s.startReceive).krCap = s.krCap := rfl

/-! Fields after `clearDecoder`. -/

@[simp] theorem State.clearDecoder_inst (s : State) : (s.clearDecoder).inst = s.inst := rfl
@[simp] theorem State.clearDecoder_decState (s : State) : (s.clearDecoder).decState = .idle := rfl
@[simp] theorem State.clearDecoder_decBuf (s : State) : (s.clearDecoder).decBuf = [] := rfl
@[simp] theorem State.clearDecoder_decOvf (s : State) : (s.clearDecoder).decOvf = false := rfl
@[simp] theorem State.clearDecoder_decHdr (s : State) : (s.clearDecoder).decHdr = false := rfl
@[simp] theorem State.clearDecoder_rx (s : State) : (s.clearDecoder).rx = s.rx := rfl
@[simp] theorem State.clearDecoder_tx (s : State) : (s.clearDecoder).tx = s.tx := rfl
@[simp] theorem State.clearDecoder_responses (s : State) : (s.clearDecoder).responses = s.responses := rfl
@[simp] theorem State.clearDecoder_schedule (s : State) : (s.clearDecoder).schedule = s.schedule := rfl
@[simp] theorem State.clearDecoder_draws (s : State) : (s.clearDecoder).draws = s.draws := rfl
@[simp] theorem State.clearDecoder_cfg (s : State) : (s.clearDecoder).cfg = s.cfg := rfl
@[simp] theorem State.clearDecoder_bufCap (s : State) : (s.clearDecoder).bufCap = s.bufCap := rfl
@[simp] theorem State.clearDecoder_krCap (s : State) : (s.clearDecoder).krCap = s.krCap := rfl

/-! Fields after `resync`. -/

@[simp] theorem State.resync_inst (s : State) : (s.resync).inst = s.inst := rfl
@[simp] theorem State.resync_decState (s : State) : (s.resync).decState = s.decState := rfl
@[simp] theorem State.resync_decBuf (s : State) : (s.resync).decBuf = [] := rfl
@[simp] theorem State.resync_decOvf (s : State) : (s.resync).decOvf = false := rfl
@[simp] theorem State.resync_decHdr (s : State) : (s.resync).decHdr = true := rfl
@[simp] theorem State.resync_rx (s : State) : (s.resync).rx = s.rx := rfl
@[simp] theorem State.resync_tx (s : State) : (s.resync).tx = s.tx := rfl
@[simp] theorem State.resync_responses (s : State) : (s.resync).responses = s.responses := rfl
@[simp] theorem State.resync_schedule (s : State) : (s.resync).schedule = s.schedule := rfl
@[simp] theorem State.resync_draws (s : State) : (s.resync).draws = s.draws := rfl
@[simp] theorem State.resync_cfg (s : State) : (s.resync).cfg = s.cfg := rfl
@[simp] theorem State.resync_bufCap (s : State) : (s.resync).bufCap = s.bufCap := rfl
@[simp] theorem State.resync_krCap (s : State) : (s.resync).krCap = s.krCap := rfl

/-! Fields after `storeByte`. -/

@[simp] theorem State.storeByte_inst (s : State) (b : Byte) : (s.storeByte b).inst = s.inst := rfl
@[simp] theorem State.storeByte_decState (s : State) (b : Byte) : (s.storeByte b).decState = s.decState := rfl
@[simp] theorem State.storeByte_decBuf (s : State) (b : Byte) : (s.storeByte b).decBuf = s.decBuf ++ [b] := rfl
@[simp] theorem State.storeByte_decOvf (s : State) (b : Byte) : (s.storeByte b).decOvf = s.decOvf := rfl
@[simp] theorem State.storeByte_decHdr (s : State) (b : Byte) : (s.storeByte b).decHdr = s.decHdr := rfl
@[simp] theorem State.storeByte_rx (s : State) (b : Byte) : (s.storeByte b).rx = s.rx := rfl
@[simp] theorem State.storeByte_tx (s : State) (b : Byte) : (s.storeByte b).tx = s.tx := rfl
@[simp] theorem State.storeByte_responses (s : State) (b : Byte) : (s.storeByte b).responses = s.responses := rfl
@[simp] theorem State.storeByte_schedule (s : State) (b : Byte) : (s.storeByte b).schedule = s.schedule := rfl
@[simp] theorem State.storeByte_draws (s : State) (b : Byte) : (s.storeByte b).draws = s.draws := rfl
@[simp] theorem State.storeByte_cfg (s : State) (b : Byte) : (s.storeByte b).cfg = s.cfg := rfl
@[simp] theorem State.storeByte_bufCap (s : State) (b : Byte) : (s.storeByte b).bufCap = s.bufCap := rfl
@[simp] theorem State.storeByte_krCap (s : State) (b : Byte) : (s.storeByte b).krCap = s.krCap := rfl

/-! Fields after `markOverflow`. -/

@[simp] theorem State.markOverflow_inst (s : State) : (s.markOverflow).inst = s.inst := rfl
@[simp] theorem State.markOverflow_decState (s : State) : (s.markOverflow).decState = s.decState := rfl
@[simp] theorem State.markOverflow_decBuf (s : State) : (s.markOverflow).decBuf = s.decBuf := rfl
@[simp] theorem State.markOverflow_decOvf (s : State) : (s.markOverflow).decOvf = true := rfl
@[simp] theorem State.markOverflow_decHdr (s : State) : (s.markOverflow).decHdr = s.decHdr := rfl
@[simp] theorem State.markOverflow_rx (s : State) : (s.markOverflow).rx = s.rx := rfl
@[simp] theorem State.markOverflow_tx (s : State) : (s.markOverflow).tx = s.tx := rfl
@[simp] theorem State.markOverflow_responses (s : State) : (s.markOverflow).responses = s.responses := rfl
@[simp] theorem State.markOverflow_schedule (s : State) : (s.markOverflow).schedule = s.schedule := rfl
@[simp] theorem State.markOverflow_draws (s : State) : (s.markOverflow).draws = s.draws := rfl
@[simp] theorem State.markOverflow_cfg (s : State) : (s.markOverflow).cfg = s.cfg := rfl
@[simp] theorem State.markOverflow_bufCap (s : State) : (s.markOverflow).bufCap = s.bufCap := rfl
@[simp] theorem State.markOverflow_krCap (s : State) : (s.markOverflow).krCap = s.krCap := rfl

/-! Fields after `respond`. -/

@[simp] theorem State.respond_inst (s : State) (who : Responder) (st : Status) (fs : ResultFields) : (s.respond who st fs).inst = s.inst := rfl
@[simp] theorem State.respond_decState (s : State) (who : Responder) (st : Status) (fs : ResultFields) : (s.respond who st fs).decState = s.decState := rfl
@[simp] theorem State.respond_decBuf (s : State) (who : Responder) (st : Status) (fs : ResultFields) : (s.respond who st fs).decBuf = s.decBuf := rfl
@[simp] theorem State.respond_decOvf (s : State) (who : Responder) (st : Status) (fs : ResultFields) : (s.respond who st fs).decOvf = s.decOvf := rfl
@[simp] theorem State.respond_decHdr (s : State) (who : Responder) (st : Status) (fs : ResultFields) : (s.respond who st fs).decHdr = s.decHdr := rfl
@[simp] theorem State.respond_rx (s : State) (who : Responder) (st : Status) (fs : ResultFields) : (s.respond who st fs).rx = s.rx := rfl
@[simp] theorem State.respond_tx (s : State) (who : Responder) (st : Status) (fs : ResultFields) : (s.respond who st fs).tx = s.tx := rfl
@[simp] theorem State.respond_responses (s : State) (who : Responder) (st : Status) (fs : ResultFields) : (s.respond who st fs).responses = s.responses ++ [⟨who, st, fs⟩] := rfl
@[simp] theorem State.respond_schedule (s : State) (who : Responder) (st : Status) (fs : ResultFields) : (s.respond who st fs).schedule = s.schedule := rfl
@[simp] theorem State.respond_draws (s : State) (who : Responder) (st : Status) (fs : ResultFields) : (s.respond who st fs).draws = s.draws := rfl
@[simp] theorem State.respond_cfg (s : State) (who : Responder) (st : Status) (fs : ResultFields) : (s.respond who st fs).cfg = s.cfg := rfl
@[simp] theorem State.respond_bufCap (s : State) (who : Responder) (st : Status) (fs : ResultFields) : (s.respond who st fs).bufCap = s.bufCap := rfl
@[simp] theorem State.respond_krCap (s : State) (who : Responder) (st : Status) (fs : ResultFields) : (s.respond who st fs).krCap = s.krCap := rfl

/-! Fields after `answer`. -/

@[simp] theorem State.answer_inst (s : State) (who : Responder) (r : Status × ResultFields) : (s.answer who r).inst = s.inst := rfl
@[simp] theorem State.answer_decState (s : State) (who : Responder) (r : Status × ResultFields) : (s.answer who r).decState = s.decState := rfl
@[simp] theorem State.answer_decBuf (s : State) (who : Responder) (r : Status × ResultFields) : (s.answer who r).decBuf = s.decBuf := rfl
@[simp] theorem State.answer_decOvf (s : State) (who : Responder) (r : Status × ResultFields) : (s.answer who r).decOvf = s.decOvf := rfl
@[simp] theorem State.answer_decHdr (s : State) (who : Responder) (r : Status × ResultFields) : (s.answer who r).decHdr = s.decHdr := rfl
@[simp] theorem State.answer_rx (s : State) (who : Responder) (r : Status × ResultFields) : (s.answer who r).rx = s.rx := rfl
@[simp] theorem State.answer_tx (s : State) (who : Responder) (r : Status × ResultFields) : (s.answer who r).tx = s.tx := rfl
@[simp] theorem State.answer_responses (s : State) (who : Responder) (r : Status × ResultFields) : (s.answer who r).responses = s.responses ++ [⟨who, r.1, r.2⟩] := rfl
@[simp] theorem State.answer_schedule (s : State) (who : Responder) (r : Status × ResultFields) : (s.answer who r).schedule = s.schedule := rfl
@[simp] theorem State.answer_draws (s : State) (who : Responder) (r : Status × ResultFields) : (s.answer who r).draws = s.draws := rfl
@[simp] theorem State.answer_cfg (s : State) (who : Responder) (r : Status × ResultFields) : (s.answer who r).cfg = s.cfg := rfl
@[simp] theorem State.answer_bufCap (s : State) (who : Responder) (r : Status × ResultFields) : (s.answer who r).bufCap = s.bufCap := rfl
@[simp] theorem State.answer_krCap (s : State) (who : Responder) (r : Status × ResultFields) : (s.answer who r).krCap = s.krCap := rfl

/-! Fields after `raise`. -/

@[simp] theorem State.raise_inst (s : State) (who : Responder) (st : Status) : (s.raise who st).inst = s.inst := rfl
@[simp] theorem State.raise_decState (s : State) (who : Responder) (st : Status) : (s.raise who st).decState = s.decState := rfl
@[simp] theorem State.raise_decBuf (s : State) (who : Responder) (st : Status) : (s.raise who st).decBuf = s.decBuf := rfl
@[simp] theorem State.raise_decOvf (s : State) (who : Responder) (st : Status) : (s.raise who st).decOvf = s.decOvf := rfl
@[simp] theorem State.raise_decHdr (s : State) (who : Responder) (st : Status) : (s.raise who st).decHdr = s.decHdr := rfl
@[simp] theorem State.raise_rx (s : State) (who : Responder) (st : Status) : (s.raise who st).rx = s.rx := rfl
@[simp] theorem State.raise_tx (s : State) (who : Responder) (st : Status) : (s.raise who st).tx = s.tx := rfl
@[simp] theorem State.raise_responses (s : State) (who : Responder) (st : Status) : (s.raise who st).responses = s.responses ++ [⟨who, st, .none⟩] := rfl
@[simp] theorem State.raise_schedule (s : State) (who : Responder) (st : Status) : (s.raise who st).schedule = s.schedule := rfl
@[simp] theorem State.raise_draws (s : State) (who : Responder) (st : Status) : (s.raise who st).draws = s.draws := rfl
@[simp] theorem State.raise_cfg (s : State) (who : Responder) (st : Status) : (s.raise who st).cfg = s.cfg := rfl
@[simp] theorem State.raise_bufCap (s : State) (who : Responder) (st : Status) : (s.raise who st).bufCap = s.bufCap := rfl
@[simp] theorem State.raise_krCap (s : State) (who : Responder) (st : Status) : (s.raise who st).krCap = s.krCap := rfl

/-! Fields after `txPush`. -/

@[simp] theorem State.txPush_inst (s : State) (b : Byte) : (s.txPush b).inst = s.inst := rfl
@[simp] theorem State.txPush_decState (s : State) (b : Byte) : (s.txPush b).decState = s.decState := rfl
@[simp] theorem State.txPush_decBuf (s : State) (b : Byte) : (s.txPush b).decBuf = s.decBuf := rfl
@[simp] theorem State.txPush_decOvf (s : State) (b : Byte) : (s.txPush b).decOvf = s.decOvf := rfl
@[simp] theorem State.txPush_decHdr (s : State) (b : Byte) : (s.txPush b).decHdr = s.decHdr := rfl
@[simp] theorem State.txPush_rx (s : State) (b : Byte) : (s.txPush b).rx = s.rx := rfl
@[simp] theorem State.txPush_tx (s : State) (b : Byte) : (s.txPush b).tx = s.tx ++ [b] := rfl
@[simp] theorem State.txPush_responses (s : State) (b : Byte) : (s.txPush b).responses = s.responses := rfl
@[simp] theorem State.txPush_schedule (s : State) (b : Byte) : (s.txPush b).schedule = s.schedule := rfl
@[simp] theorem State.txPush_draws (s : State) (b : Byte) : (s.txPush b).draws = s.draws := rfl
@[simp] theorem State.txPush_cfg (s : State) (b : Byte) : (s.txPush b).cfg = s.cfg := rfl
@[simp] theorem State.txPush_bufCap (s : State) (b : Byte) : (s.txPush b).bufCap = s.bufCap := rfl
@[simp] theorem State.txPush_krCap (s : State) (b : Byte) : (s.txPush b).krCap = s.krCap := rfl

/-! Fields after `rxAppend`. -/

@[simp] theorem State.rxAppend_inst (s : State) (bs : List Byte) : (s.rxAppend bs).inst = s.inst := rfl
@[simp] theorem State.rxAppend_decState (s : State) (bs : List Byte) : (s.rxAppend bs).decState = s.decState := rfl
@[simp] theorem State.rxAppend_decBuf (s : State) (bs : List Byte) : (s.rxAppend bs).decBuf = s.decBuf := rfl
@[simp] theorem State.rxAppend_decOvf (s : State) (bs : List Byte) : (s.rxAppend bs).decOvf = s.decOvf := rfl
@[simp] theorem State.rxAppend_decHdr (s : State) (bs : List Byte) : (s.rxAppend bs).decHdr = s.decHdr := rfl
@[simp] theorem State.rxAppend_rx (s : State) (bs : List Byte) : (s.rxAppend bs).rx = s.rx ++ bs := rfl
@[simp] theorem State.rxAppend_tx (s : State) (bs : List Byte) : (s.rxAppend bs).tx = s.tx := rfl
@[simp] theorem State.rxAppend_responses (s : State) (bs : List Byte) : (s.rxAppend bs).responses = s.responses := rfl
@[simp] theorem State.rxAppend_schedule (s : State) (bs : List Byte) : (s.rxAppend bs).schedule = s.schedule := rfl
@[simp] theorem State.rxAppend_draws (s : State) (bs : List Byte) : (s.rxAppend bs).draws = s.draws := rfl
@[simp] theorem State.rxAppend_cfg (s : State) (bs : List Byte) : (s.rxAppend bs).cfg = s.cfg := rfl
@[simp] theorem State.rxAppend_bufCap (s : State) (bs : List Byte) : (s.rxAppend bs).bufCap = s.bufCap := rfl
@[simp] theorem State.rxAppend_krCap (s : State) (bs : List Byte) : (s.rxAppend bs).krCap = s.krCap := rfl

/-! Fields after `endReceive`. -/

@[simp] theorem State.endReceive_inst (s : State) (r : Status × ResultFields) : (s.endReceive r).inst = s.inst := rfl
@[simp] theorem State.endReceive_decState (s : State) (r : Status × ResultFields) : (s.endReceive r).decState = .idle := rfl
@[simp] theorem State.endReceive_decBuf (s : State) (r : Status × ResultFields) : (s.endReceive r).decBuf = [] := rfl
@[simp] theorem State.endReceive_decOvf (s : State) (r : Status × ResultFields) : (s.endReceive r).decOvf = false := rfl
@[simp] theorem State.endReceive_decHdr (s : State) (r : Status × ResultFields) : (s.endReceive r).decHdr = false := rfl
@[simp] theorem State.endReceive_rx (s : State) (r : Status × ResultFields) : (s.endReceive r).rx = s.rx := rfl
@[simp] theorem State.endReceive_tx (s : State) (r : Status × ResultFields) : (s.endReceive r).tx = s.tx := rfl
@[simp] theorem State.endReceive_responses (s : State) (r : Status × ResultFields) : (s.endReceive r).responses = s.responses ++ [⟨.fdec, r.1, r.2⟩] := rfl
@[simp] theorem State.endReceive_schedule (s : State) (r : Status × ResultFields) : (s.endReceive r).schedule = s.schedule := rfl
@[simp] theorem State.endReceive_draws (s : State) (r : Status × ResultFields) : (s.endReceive r).draws = s.draws := rfl
@[simp] theorem State.endReceive_cfg (s : State) (r : Status × ResultFields) : (s.endReceive r).cfg = s.cfg := rfl
@[simp] theorem State.endReceive_bufCap (s : State) (r : Status × ResultFields) : (s.endReceive r).bufCap = s.bufCap := rfl
@[simp] theorem State.endReceive_krCap (s : State) (r : Status × ResultFields) : (s.endReceive r).krCap = s.krCap := rfl

/-! Fields after `issue`. -/

@[simp] theorem State.issue_inst (s : State) (cmd : Byte) (ops : OperandRecord) : (s.issue cmd ops).inst = s.inst := rfl
@[simp] theorem State.issue_decState (s : State) (cmd : Byte) (ops : OperandRecord) : (s.issue cmd ops).decState = s.decState := rfl
@[simp] theorem State.issue_decBuf (s : State) (cmd : Byte) (ops : OperandRecord) : (s.issue cmd ops).decBuf = s.decBuf := rfl
@[simp] theorem State.issue_decOvf (s : State) (cmd : Byte) (ops : OperandRecord) : (s.issue cmd ops).decOvf = s.decOvf := rfl
@[simp] theorem State.issue_decHdr (s : State) (cmd : Byte) (ops : OperandRecord) : (s.issue cmd ops).decHdr = s.decHdr := rfl
@[simp] theorem State.issue_rx (s : State) (cmd : Byte) (ops : OperandRecord) : (s.issue cmd ops).rx = s.rx := rfl
@[simp] theorem State.issue_tx (s : State) (cmd : Byte) (ops : OperandRecord) : (s.issue cmd ops).tx = s.tx := rfl
@[simp] theorem State.issue_responses (s : State) (cmd : Byte) (ops : OperandRecord) : (s.issue cmd ops).responses = s.responses := rfl
@[simp] theorem State.issue_schedule (s : State) (cmd : Byte) (ops : OperandRecord) : (s.issue cmd ops).schedule = .command cmd ops :: s.schedule := rfl
@[simp] theorem State.issue_draws (s : State) (cmd : Byte) (ops : OperandRecord) : (s.issue cmd ops).draws = s.draws := rfl
@[simp] theorem State.issue_cfg (s : State) (cmd : Byte) (ops : OperandRecord) : (s.issue cmd ops).cfg = s.cfg := rfl
@[simp] theorem State.issue_bufCap (s : State) (cmd : Byte) (ops : OperandRecord) : (s.issue cmd ops).bufCap = s.bufCap := rfl
@[simp] theorem State.issue_krCap (s : State) (cmd : Byte) (ops : OperandRecord) : (s.issue cmd ops).krCap = s.krCap := rfl

/-! Fields of the power-on state. -/

@[simp] theorem State.powerOn_inst (inst : Instantiation) : (State.powerOn inst).inst = inst := rfl
@[simp] theorem State.powerOn_decState (inst : Instantiation) : (State.powerOn inst).decState = .idle := rfl
@[simp] theorem State.powerOn_decBuf (inst : Instantiation) : (State.powerOn inst).decBuf = [] := rfl
@[simp] theorem State.powerOn_decOvf (inst : Instantiation) : (State.powerOn inst).decOvf = false := rfl
@[simp] theorem State.powerOn_decHdr (inst : Instantiation) : (State.powerOn inst).decHdr = false := rfl
@[simp] theorem State.powerOn_rx (inst : Instantiation) : (State.powerOn inst).rx = [] := rfl
@[simp] theorem State.powerOn_tx (inst : Instantiation) : (State.powerOn inst).tx = [] := rfl
@[simp] theorem State.powerOn_responses (inst : Instantiation) : (State.powerOn inst).responses = [] := rfl
@[simp] theorem State.powerOn_schedule (inst : Instantiation) : (State.powerOn inst).schedule = [] := rfl
@[simp] theorem State.powerOn_draws (inst : Instantiation) : (State.powerOn inst).draws = 0 := rfl

end Sys2Proof.Machine
end

