-- ==== Sys2Proof/Laws/Ops.lean ====
section
/-! SUPPORT. What each shared operation can do, said once, so that later proofs cite it instead of unfolding it. -/

namespace Sys2Proof.Machine

/-- Pushing bytes one after the other appends them all and changes nothing else. -/
theorem State.txPushAll_eq (s : State) (bs : List Byte) : s.txPushAll bs = { s with tx := s.tx ++ bs } := by
  unfold State.txPushAll
  induction bs generalizing s with
  | nil => simp
  | cons b bs ih => simp [ih, State.txPush]

/-- RxPull answers exactly while RECV with a byte waiting, and then removes that byte alone. -/
theorem State.rxPull_eq_some {s t : State} {b : Byte} :
    s.rxPull = some (b, t) ↔ s.decState = .recv ∧ ∃ rest, s.rx = b :: rest ∧ t = { s with rx := rest } := by
  unfold State.rxPull
  split
  · next rest hd hr => simp [hd, hr, eq_comm]
  · next h =>
    constructor
    · intro h'; cases h'
    · rintro ⟨hd, rest, hr, -⟩
      exact absurd hr (by intro hr; exact h _ _ hd hr)

theorem State.rxPull_recv {s : State} {b : Byte} {rest : List Byte} (hd : s.decState = .recv) (hr : s.rx = b :: rest) :
    s.rxPull = some (b, { s with rx := rest }) :=
  State.rxPull_eq_some.mpr ⟨hd, rest, hr, rfl⟩

theorem State.closeReceive_recv {s : State} (h : s.decState = .recv) :
    s.closeReceive = s.endReceive (.closed, .none) := by simp [State.closeReceive, h]

theorem State.closeReceive_idle {s : State} (h : s.decState = .idle) : s.closeReceive = s := by
  simp [State.closeReceive, h]

/-- The close of a receive, in its two cases. -/
theorem State.closeReceive_cases (s : State) :
    (s.decState = .recv ∧ s.closeReceive = s.endReceive (.closed, .none)) ∨
    (s.decState = .idle ∧ s.closeReceive = s) := by
  cases h : s.decState
  · exact .inr ⟨rfl, State.closeReceive_idle h⟩
  · exact .inl ⟨rfl, State.closeReceive_recv h⟩

/-- What the byte pulled by an rx step does, in the four cases of R122, R123 and R124. -/
theorem State.receiveByte_cases (s : State) (b : Byte) :
    (b = s.cfg.hdr ∧ s.receiveByte b = s.resync) ∨
    (b ≠ s.cfg.hdr ∧ b = s.cfg.ftr ∧ s.receiveByte b = s.complete) ∨
    (b ≠ s.cfg.hdr ∧ b ≠ s.cfg.ftr ∧ hasRoom s.bufCap s.decBuf.length = true ∧ s.receiveByte b = s.storeByte b) ∨
    (b ≠ s.cfg.hdr ∧ b ≠ s.cfg.ftr ∧ hasRoom s.bufCap s.decBuf.length = false ∧ s.receiveByte b = s.markOverflow) := by
  unfold State.receiveByte classOf State.receiveData
  by_cases h1 : b = s.cfg.hdr
  · simp [h1]
  · by_cases h2 : b = s.cfg.ftr
    · have h3 : ¬ s.cfg.ftr = s.cfg.hdr := h2 ▸ h1
      simp [h2, h3]
    · cases h4 : hasRoom s.bufCap s.decBuf.length <;> simp [h1, h2]

/-- An rx step that answers: a byte was waiting in RECV, and the state is what that byte makes of it. -/
theorem rxStepEvent_next {s t : State} :
    rxStepEvent s = .next t ↔
      s.decState = .recv ∧ ∃ b rest, s.rx = b :: rest ∧ t = ({ s with rx := rest } : State).receiveByte b := by
  unfold rxStepEvent
  cases h : s.rxPull with
  | none =>
    simp only [reduceCtorEq, false_iff]
    rintro ⟨hd, b, rest, hr, -⟩
    rw [State.rxPull_recv hd hr] at h
    cases h
  | some bt =>
    obtain ⟨b, u⟩ := bt
    obtain ⟨hd, rest, hr, rfl⟩ := State.rxPull_eq_some.mp h
    simp [hd, hr, eq_comm]

/-- Expiry answers exactly while RECV (R128). -/
theorem expiryEvent_next {s t : State} :
    expiryEvent s = .next t ↔ s.decState = .recv ∧ t = s.endReceive (.timeout, .none) := by
  unfold expiryEvent
  cases h : s.decState <;> simp [eq_comm]

/-! The decoder on the five command words of R71. -/

@[simp] theorem decode_fenc (ops : OperandRecord) : decode 0x01#8 ops = .ok (.fenc ops.p) := rfl

@[simp] theorem decode_fdec (ops : OperandRecord) : decode 0x02#8 ops = .ok .fdec := rfl

@[simp] theorem decode_fabt (ops : OperandRecord) : decode 0x03#8 ops = .ok .fabt := rfl

@[simp] theorem decode_kenc (ops : OperandRecord) :
    decode 0x11#8 ops = .ok (.kenc ops.sln ops.kid ops.kek ops.erase ops.key) := rfl

@[simp] theorem decode_kdec (ops : OperandRecord) : decode 0x12#8 ops = .ok (.kdec ops.r) := rfl

/-- A command event runs the decoded command, or answers ILLEGAL_CMD (R72). -/
theorem commandEvent_cases (cmd : Byte) (ops : OperandRecord) (s : State) :
    (∃ i, decode cmd ops = .ok i ∧ commandEvent cmd ops s = exec i s) ∨
    (∃ w, decode cmd ops = .error (.reservedCmd w) ∧
      commandEvent cmd ops s = .next (s.raise (.reserved w) .illegalCmd)) := by
  unfold commandEvent
  cases h : decode cmd ops with
  | ok i => exact .inl ⟨i, rfl, rfl⟩
  | error e => cases e with | reservedCmd w => exact .inr ⟨w, rfl, rfl⟩

/-- What each command makes of a state: the five meanings in equations over the shared operations. -/
theorem exec_fenc (p : List Byte) (s : State) :
    exec (.fenc p) s = .next ((s.txPushAll (wireFrame s.cfg p)).respond .fenc .ok .none) := rfl

theorem exec_fdec_idle {s : State} (h : s.decState = .idle) : exec .fdec s = .next s.startReceive := by
  simp [exec, execFdec, h]

theorem exec_fdec_recv {s : State} (h : s.decState = .recv) : exec .fdec s = .next (s.raise .fdec .busy) := by
  simp [exec, execFdec, h]

theorem exec_fabt (s : State) : exec .fabt s = .next (s.closeReceive.respond .fabt .ok .none) := rfl

theorem exec_kenc (sln kid : Half) (kek erase : Bool) (key : List Byte) (s : State) :
    exec (.kenc sln kid kek erase key) s = .next (s.answer .kenc (kencResult s.krCap sln kid kek erase key)) := rfl

theorem exec_kdec (r : List Byte) (s : State) :
    exec (.kdec r) s = .next (s.answer .kdec (kdecResult s.krCap r)) := rfl

/-- A step with an event scheduled takes that event. -/
theorem step_scheduled {s : State} {e : Event} {rest : List Event} (h : s.schedule = e :: rest) :
    step s = performEvent e { s with schedule := rest } := by
  simp [step, h]

/-- A step with nothing scheduled is the block's own. -/
theorem step_unscheduled {s : State} (h : s.schedule = []) : step s = autonomousStep s := by
  simp [step, h]

/-- What the block does on its own, in the four cases of entry 7. -/
theorem autonomousStep_cases (s : State) :
    (s.decState = .idle ∧ autonomousStep s = .next s) ∨
    (s.decState = .recv ∧ s.rx = [] ∧ autonomousStep s = expiryEvent s) ∨
    (s.decState = .recv ∧ s.rx ≠ [] ∧ autonomousStep s = expiryEvent { s with draws := s.draws + 1 }) ∨
    (s.decState = .recv ∧ s.rx ≠ [] ∧ autonomousStep s = rxStepEvent { s with draws := s.draws + 1 }) := by
  unfold autonomousStep
  cases hd : s.decState with
  | idle => simp
  | recv =>
    cases hr : s.rx with
    | nil => simp
    | cons b rest => cases hf : Config.freeExpiry s.draws <;> simp

@[simp] theorem runSteps_zero (s : State) : runSteps 0 s = .next s := rfl

/-- A run's first step, when it answers. -/
theorem runSteps_succ {n : Nat} {s t : State} (h : step s = .next t) : runSteps (n + 1) s = runSteps n t := by
  simp [runSteps, h]

/-- Two runs one after the other. -/
theorem runSteps_add {m n : Nat} {s t : State} (h : runSteps m s = .next t) :
    runSteps (m + n) s = runSteps n t := by
  induction m generalizing s with
  | zero =>
    cases h
    simp
  | succ m ih =>
    rw [Nat.succ_add]
    cases hs : step s with
    | next u => simp only [runSteps, hs] at h ⊢; exact ih h
    | fault r => simp [runSteps, hs] at h
    | refused r => simp [runSteps, hs] at h

/-- Instantiation answers the power-on state of parameters that pass, and refuses the others. -/
theorem State.instantiate_of_wf {p : Params} (h : p.wf = true) :
    State.instantiate p = .next (State.powerOn { params := p, ok := h }) := by
  simp [State.instantiate, h]

end Sys2Proof.Machine
end

