-- ==== Sys2Proof/Laws/Execution.lean ====
section
/-! SUPPORT. What an event can do to a pending receive, said once, and the small lemmas of event lists and executions. -/

namespace Sys2Proof.Machine

/-! Lists of events. -/

@[simp] theorem performEvents_nil (s : State) : performEvents [] s = .next s := rfl

/-- The first event of a list, when it answers. -/
theorem performEvents_cons {e : Event} {s t : State} (rest : List Event) (h : performEvent e s = .next t) :
    performEvents (e :: rest) s = performEvents rest t := by
  simp [performEvents, h]

/-- A list of events that answers: its first event answers, and the others answer from there. -/
theorem performEvents_cons_next {e : Event} {rest : List Event} {s t : State} :
    performEvents (e :: rest) s = .next t ↔ ∃ u, performEvent e s = .next u ∧ performEvents rest u = .next t := by
  cases h : performEvent e s <;> simp [performEvents, h]

/-- The arrival of no bytes changes nothing (entry 8). -/
theorem performEvent_arriveNone (s : State) : performEvent (.rxArrive []) s = .next s := by
  simp [performEvent, State.rxAppend]

/-- Expiry is enabled exactly while a receive is pending (R128). -/
theorem expire_enabled (s : State) : Event.expire.enabled s = true ↔ s.decState = .recv := by
  cases h : s.decState <;> simp [Event.enabled, State.receiving, h]

/-! The responses of a receive. -/

/-- The unescape pass never reports BUSY. -/
theorem unescapeFrom_ne_busy (f : Family) (out s : List Byte) : (unescapeFrom f out s).1 ≠ .busy := by
  fun_induction unescapeFrom f out s <;> simp_all

/-- A completion never answers BUSY, so it ends its FDEC (R126, R120). -/
theorem completionResult_endsFdec (f : Family) (buf : List Byte) (ovf hdr : Bool) :
    Response.endsFdec ⟨.fdec, (completionResult f buf ovf hdr).1, (completionResult f buf ovf hdr).2⟩ = true := by
  have h := unescapeFrom_ne_busy f [] buf
  cases ovf
  · simp only [completionResult_body, frameResult, unescape, Response.endsFdec]
    by_cases hok : (unescapeFrom f [] buf).1 = .ok <;> simp [hok, h]
  · rfl

/-- Only the word of FABT decodes to FABT (R71). -/
theorem decode_eq_fabt {cmd : Byte} {ops : OperandRecord} (h : decode cmd ops = .ok .fabt) : cmd = 0x03 := by
  have word : ∀ c : Byte, cmdUnit c = 0x0 → cmdOp c = 0x3 → c = 0x03 := by decide
  unfold decode at h
  split_ifs at h <;> first | exact word cmd ‹_› ‹_› | cases h

/-- A response that does not end an FDEC leaves a receive pending. -/
theorem staysPending_respond {s t : State} (r : Response) (hd : t.decState = .recv)
    (hr : t.responses = s.responses ++ [r]) (h : r.endsFdec = false) : StaysPending s t :=
  ⟨hd, [r], hr, by simp [h]⟩

/-- The end of a receive with any result but BUSY. -/
theorem endsReceive_endReceive (s : State) (r : Status × ResultFields) (h : Response.endsFdec ⟨.fdec, r.1, r.2⟩ = true) :
    EndsReceive s (s.endReceive r) :=
  ⟨rfl, [⟨.fdec, r.1, r.2⟩], rfl, by simp [h]⟩

/-- What an rx step makes of a receive. -/
theorem receiveByte_pending {s : State} (b : Byte) (hd : s.decState = .recv) :
    StaysPending s (s.receiveByte b) ∨ EndsReceive s (s.receiveByte b) := by
  have same : ∀ t : State, t.decState = .recv → t.responses = s.responses → StaysPending s t :=
    fun t h1 h2 => ⟨h1, [], by simp [h2], rfl⟩
  rcases State.receiveByte_cases s b with ⟨-, h⟩ | ⟨-, -, h⟩ | ⟨-, -, -, h⟩ | ⟨-, -, -, h⟩ <;> rw [h]
  · exact .inl (same _ (by simpa using hd) rfl)
  · exact .inr (endsReceive_endReceive s _ (completionResult_endsFdec _ _ _ _))
  · exact .inl (same _ (by simpa using hd) rfl)
  · exact .inl (same _ (by simpa using hd) rfl)

/-- What a command makes of a receive: only FABT ends it (R121, R130). -/
theorem exec_pending {i : Instr} {s t : State} (hd : s.decState = .recv) (h : exec i s = .next t) :
    StaysPending s t ∨ (i = .fabt ∧ EndsReceive s t) := by
  cases i with
  | fenc p =>
    rw [exec_fenc, State.txPushAll_eq] at h
    cases h
    exact .inl (staysPending_respond _ hd rfl rfl)
  | fdec =>
    rw [exec_fdec_recv hd] at h
    cases h
    exact .inl (staysPending_respond _ hd rfl rfl)
  | fabt =>
    rw [exec_fabt, State.closeReceive_recv hd] at h
    cases h
    exact .inr ⟨rfl, rfl, [⟨.fdec, .closed, .none⟩, ⟨.fabt, .ok, .none⟩], by simp, rfl⟩
  | kenc sln kid kek erase key =>
    rw [exec_kenc] at h
    cases h
    exact .inl (staysPending_respond _ hd rfl rfl)
  | kdec r =>
    rw [exec_kdec] at h
    cases h
    exact .inl (staysPending_respond _ hd rfl rfl)

/-- What an event makes of a receive: it stays pending, or it ends with one response, by one of the four causes of R133. -/
theorem performEvent_pending {e : Event} {s t : State} (hd : s.decState = .recv) (h : performEvent e s = .next t) :
    StaysPending s t ∨
    ((e = .rxStep ∨ (∃ ops, e = .command 0x03 ops) ∨ e = .reset ∨ e = .expire) ∧ EndsReceive s t) := by
  cases e with
  | command cmd ops =>
    rcases commandEvent_cases cmd ops s with ⟨i, hi, he⟩ | ⟨w, -, he⟩
    · rcases exec_pending hd (he.symm.trans h) with hp | ⟨rfl, hp⟩
      · exact .inl hp
      · exact .inr ⟨.inr (.inl ⟨ops, by rw [decode_eq_fabt hi]⟩), hp⟩
    · cases he.symm.trans h
      exact .inl (staysPending_respond _ hd rfl rfl)
  | rxArrive bs =>
    cases h
    exact .inl ⟨hd, [], by simp [State.rxAppend], rfl⟩
  | rxStep =>
    obtain ⟨-, b, rest, -, rfl⟩ := rxStepEvent_next.mp h
    exact (receiveByte_pending (s := { s with rx := rest }) b hd).imp id fun hp => ⟨.inl rfl, hp⟩
  | expire =>
    obtain ⟨-, rfl⟩ := expiryEvent_next.mp h
    exact .inr ⟨.inr (.inr (.inr rfl)), endsReceive_endReceive s _ rfl⟩
  | reset =>
    cases h
    refine .inr ⟨.inr (.inr (.inl rfl)), ?_⟩
    rw [State.resetEvent, State.closeReceive_recv hd]
    exact ⟨rfl, [⟨.fdec, .closed, .none⟩], rfl, rfl⟩

end Sys2Proof.Machine
end

