-- ==== Sys2Proof/Laws/PerInstr.lean ====
section
/-! SUPPORT. Statements made for each command by its constructor. -/

namespace Sys2Proof.Laws.CommandWord

open Sys2Proof.Machine

/-- The command word of `i` has the UNIT of R70's table (0x0 for the frame unit, 0x1 for the key record unit) and the OP of
R71's, and is none of the reserved words of R72. -/
def Statement (i : Instr) : Prop :=
  (cmdUnit (commandWord i), cmdOp (commandWord i)) =
    (match i with
      | .fenc _ => (0x0, 0x1)
      | .fdec => (0x0, 0x2)
      | .fabt => (0x0, 0x3)
      | .kenc _ _ _ _ _ => (0x1, 0x1)
      | .kdec _ => (0x1, 0x2)) ∧
  reservedCmd (commandWord i) = false

theorem fenc (p : List Byte) : Statement (.fenc p) := by
  change (cmdUnit 0x01, cmdOp 0x01) = (0x0, 0x1) ∧ reservedCmd 0x01 = false
  decide

theorem fdec : Statement .fdec := by
  change (cmdUnit 0x02, cmdOp 0x02) = (0x0, 0x2) ∧ reservedCmd 0x02 = false
  decide

theorem fabt : Statement .fabt := by
  change (cmdUnit 0x03, cmdOp 0x03) = (0x0, 0x3) ∧ reservedCmd 0x03 = false
  decide

theorem kenc (sln kid : Half) (kek erase : Bool) (key : List Byte) : Statement (.kenc sln kid kek erase key) := by
  change (cmdUnit 0x11, cmdOp 0x11) = (0x1, 0x1) ∧ reservedCmd 0x11 = false
  decide

theorem kdec (r : List Byte) : Statement (.kdec r) := by
  change (cmdUnit 0x12, cmdOp 0x12) = (0x1, 0x2) ∧ reservedCmd 0x12 = false
  decide

end Sys2Proof.Laws.CommandWord
end

