-- ==== Sys2Proof/Tests/Slice0.lean ====
section
/-! SUPPORT. The model's own tests, on family TF of 95_test_vectors.md section 1: smoke tests of the checks, the command words of
30_encoding.md R71, one or two steps per command against the spec's vectors, and for every statement with hypotheses a
concrete state that meets them together. -/

namespace Sys2Proof.Tests

open Sys2Proof.Machine

/-- A block with family TF and no capacity limits, idle, with empty streams and nothing scheduled. -/
def idle : State := State.powerOn {}

/-- The same with `BUF_CAP = 2` and `KR_CAP = 6`. -/
def small : State :=
  State.powerOn { params := { Config.testParams with bufCap := .bytes 2, krCap := .bytes 6 } }

/-- A pending receive with these bytes in `dec_buf` and on rx. -/
def receiving (s : State) (buf rx : List Byte) : State := { s with decState := .recv, decBuf := buf, rx := rx }

/-- The state with these events next. -/
def scheduled (s : State) (evs : List Event) : State := { s with schedule := evs }

/-- The response a run's state ends with. -/
def lastResponse (o : Host.Outcome State Fault Refusal) : Option Response :=
  match o with
  | .next t => t.responses.getLast?
  | .fault _ => none
  | .refused _ => none

/-- The tx stream of a run's state. -/
def txAfter (o : Host.Outcome State Fault Refusal) : List Byte :=
  match o with
  | .next t => t.tx
  | .fault _ => []
  | .refused _ => []

/-! Smoke tests: for each check an ill-formed term that it refuses (95_test_vectors.md section 2.6). -/

theorem test_distinctSpecials_refuses : ({ Config.testFamily with ftr := 0x70 } : Family).distinctSpecials = false := by
  decide

theorem test_distinctPlaceholders_refuses :
    ({ Config.testFamily with phFtr := 0x62 } : Family).distinctPlaceholders = false := by decide

theorem test_placeholderNotDelimiter_refuses :
    ({ Config.testFamily with phHdr := 0x63 } : Family).placeholderNotDelimiter = false := by decide

theorem test_placeholder_may_equal_esc : ({ Config.testFamily with phEsc := 0x70 } : Family).wf = true := by decide

theorem test_params_refuse_bufCap_zero : ({ Config.testParams with bufCap := .bytes 0 } : Params).wf = false := by decide

theorem test_params_refuse_krCap_four : ({ Config.testParams with krCap := .bytes 4 } : Params).wf = false := by decide

theorem test_params_accept_the_bounds :
    ({ Config.testParams with bufCap := .bytes 1, krCap := .bytes 5 } : Params).wf = true := by decide

theorem test_present_refuses_text : HostValue.present (.text "x") = .error .typeError := rfl

theorem test_present_refuses_above_port : HostValue.present (.int 0x10000) = .error .rangeError := rfl

/-! Decoding: the five command words of R71 bit by bit (UNIT, then OP), and reserved neighbours. -/

theorem test_decode_fenc : decode 0b00000001 { OperandRecord.zero with p := [0x61] } = .ok (.fenc [0x61]) := rfl

theorem test_decode_fdec : decode 0b00000010 OperandRecord.zero = .ok .fdec := rfl

theorem test_decode_fabt : decode 0b00000011 OperandRecord.zero = .ok .fabt := rfl

theorem test_decode_kenc :
    decode 0b00010001 { OperandRecord.zero with sln := 0x1234, kid := 0x5678, kek := true, key := [0x01] } =
      .ok (.kenc 0x1234 0x5678 true false [0x01]) := rfl

theorem test_decode_kdec : decode 0b00010010 { OperandRecord.zero with r := [0x80] } = .ok (.kdec [0x80]) := rfl

theorem test_decode_refuses_reserved :
    ([0x00, 0x04, 0x0F, 0x10, 0x13, 0x20, 0xFF] : List Byte).all
      (fun w => decide (decode w OperandRecord.zero = .error (.reservedCmd w))) = true := by decide

theorem test_every_word_is_decoded_or_reserved :
    ((List.range 256).all fun n =>
      (decode (BitVec.ofNat 8 n) OperandRecord.zero).toOption.isSome != reservedCmd (BitVec.ofNat 8 n)) = true := by
  decide +kernel

/-! One step each. Sources: 95_test_vectors.md, the ids in the names. -/

theorem test_fenc_FE6 : txAfter (exec (.fenc [0x61, 0x63, 0x70]) idle) =
    [0x61, 0x70, 0x62, 0x70, 0x64, 0x70, 0x71, 0x63] := by decide

theorem test_fenc_FE5 : txAfter (exec (.fenc [0x62, 0x64, 0x71]) idle) = [0x61, 0x62, 0x64, 0x71, 0x63] := by decide

theorem test_fdec_FC1_busy : lastResponse (exec .fdec (receiving idle [] [])) = some ⟨.fdec, .busy, .none⟩ := by decide

theorem test_fabt_FC2_order :
    (match exec .fabt (receiving idle [0x01] []) with | .next t => t.responses | .fault _ => [] | .refused _ => []) =
      [⟨.fdec, .closed, .none⟩, ⟨.fabt, .ok, .none⟩] := by decide

theorem test_kenc_KE1 : lastResponse (exec (.kenc 0x1234 0x5678 true false [0x01, 0x02]) idle) =
    some ⟨.kenc, .ok, .record [0x80, 0x12, 0x34, 0x56, 0x78, 0x01, 0x02]⟩ := by decide

theorem test_kenc_KE10 : lastResponse (exec (.kenc 1 1 false false [0x01, 0x02]) small) =
    some ⟨.kenc, .krTooLong, .none⟩ := by decide

theorem test_kdec_KD5 : lastResponse (exec (.kdec [0xA0, 0x00, 0x01, 0xFF, 0xFE, 0xAA]) idle) =
    some ⟨.kdec, .ok, .item 1 0xFFFE true true [0xAA]⟩ := by decide

theorem test_kdec_KD14 : lastResponse (exec (.kdec [0x41, 0x00, 0x00, 0x00, 0x00]) idle) =
    some ⟨.kdec, .krReservedFlags, .none⟩ := by decide

theorem test_rxStep_FD13 : lastResponse (rxStepEvent (receiving idle [0x70, 0x05, 0x70] [0x63])) =
    some ⟨.fdec, .framingBadPlaceholder, .none⟩ := by decide

theorem test_rxStep_FD7 : lastResponse (rxStepEvent (receiving idle [0x70] [0x63])) =
    some ⟨.fdec, .framingTrailingEscape, .none⟩ := by decide

theorem test_reserved_FC5 :
    lastResponse (step (scheduled idle [.command 0x05 OperandRecord.zero])) =
      some ⟨.reserved 0x05, .illegalCmd, .none⟩ := by decide

theorem test_withFetchWord_runs_first : lastResponse (step (State.reset.withFetchWord 8 0x11)) =
    some ⟨.kenc, .validationSln, .none⟩ := by decide

theorem test_status_reserved_code_refused : Status.ofCode 0x0D = .error (.reservedStatus 0x0D) := rfl

theorem test_parse_R86 :
    parseLine "KENC 0x1234, 156, 1, 0, [01 fF] ; note".toList =
      some (.command (.kenc ⟨.int 0x1234, .int 156, true, false, [0x01, 0xFF]⟩)) := by decide

/-! Witnesses: for each statement with hypotheses, values that meet all of them. -/

theorem witness_FdecStartsAReceiveOrAnswersBusy :
    idle.decState = .idle ∧ (receiving idle [] []).decState = .recv := by decide

theorem witness_FabtEndsThePendingReceive :
    (receiving idle [0x01] []).decState = .recv ∧ idle.decState = .idle := by decide

theorem witness_ReservedWordAnswersIllegalCmd : reservedCmd 0x04 = true ∧ reservedCmd 0xFF = true := by decide

theorem witness_StepRunsTheDecodedCommand :
    ∃ (s : State) (cmd : Byte) (ops : OperandRecord) (rest : List Event) (i : Instr),
      s.schedule = .command cmd ops :: rest ∧ decode cmd ops = .ok i :=
  ⟨scheduled idle [.command 0x11 OperandRecord.zero], 0x11, OperandRecord.zero, [], _, rfl, rfl⟩

theorem witness_DecodeAndEncodeAgree :
    ∃ (cmd : Byte) (ops : OperandRecord) (i : Instr), decode cmd ops = .ok i :=
  ⟨0x12, OperandRecord.zero, _, rfl⟩

theorem witness_HeaderByteResynchronises :
    ∃ (s : State) (rest : List Byte), s.decState = .recv ∧ s.rx = s.cfg.hdr :: rest ∧ s.decBuf ≠ [] :=
  ⟨receiving idle [0x70] [0x61, 0x02], [0x02], by decide⟩

theorem witness_FooterByteCompletesTheReceive :
    ∃ (s : State) (rest : List Byte), s.decState = .recv ∧ s.rx = s.cfg.ftr :: rest ∧ rest ≠ [] :=
  ⟨receiving idle [0x01] [0x63, 0x61], [0x61], by decide⟩

/-- One byte below the capacity, and at it. -/
theorem witness_DataByteIsStoredOrOverflows :
    (∃ (s : State) (b : Byte) (rest : List Byte) (c : Nat), s.decState = .recv ∧ s.rx = b :: rest ∧
      b ≠ s.cfg.hdr ∧ b ≠ s.cfg.ftr ∧ s.bufCap = .bytes c ∧ s.decBuf.length + 1 = c) ∧
    ∃ (s : State) (b : Byte) (rest : List Byte) (c : Nat), s.decState = .recv ∧ s.rx = b :: rest ∧
      b ≠ s.cfg.hdr ∧ b ≠ s.cfg.ftr ∧ s.bufCap = .bytes c ∧ c = s.decBuf.length :=
  ⟨⟨receiving small [0x01] [0x70], 0x70, [], 2, by decide⟩,
   ⟨receiving small [0x01, 0x02] [0x70], 0x70, [], 2, by decide⟩⟩

theorem witness_ExpiryEndsTheReceiveWithTimeout : (receiving idle [] [0x63]).decState = .recv := by decide

/-- Both branches of the statement about reset, which has no hypotheses. -/
theorem witness_ResetEventClearsTheDecoder :
    (receiving idle [0x01] []).decState = .recv ∧ idle.decState ≠ .recv := by decide

theorem witness_NoRxAccessWhileIdle :
    (∃ (s : State) (later : List Event), s.decState = .idle ∧ s.schedule = .rxStep :: later ∧ s.rx ≠ []) ∧
    ∃ (s : State) (t : State), s.decState = .idle ∧ step s = .next t ∧ t.rx = [0x61] :=
  ⟨⟨scheduled { idle with rx := [0x61] } [.rxStep], [], by decide⟩,
   ⟨scheduled idle [.rxArrive [0x61]], _, rfl, rfl, rfl⟩⟩

theorem witness_UnscheduledStepIsAnEnabledEvent :
    (idle.schedule = [] ∧ idle.decState = .idle) ∧
    ((receiving idle [] []).schedule = [] ∧ (receiving idle [] []).decState = .recv ∧ (receiving idle [] []).rx = []) ∧
    (receiving idle [] [0x63]).schedule = [] ∧ (receiving idle [] [0x63]).decState = .recv ∧
      (receiving idle [] [0x63]).rx = 0x63 :: [] := by decide

theorem witness_IllFormedFamilyIsRefused :
    ({ Config.testParams with family := { Config.testFamily with ftr := 0x70 } } : Params).family.wf = false ∧
    (Config.testParams.family.wf = true ∧
      (({ Config.testParams with krCap := .bytes 4 } : Params).bufCap.atLeast 1 &&
        ({ Config.testParams with krCap := .bytes 4 } : Params).krCap.atLeast 5) = false) ∧
    Config.testParams.family.wf = true ∧ (Config.testParams.bufCap.atLeast 1 && Config.testParams.krCap.atLeast 5) = true := by
  decide

/-- Of EscapeTableHasFourRows, PlaceholderTableHasFourRows, ReceiveClassesAreExclusive, WireFrameHasOneHeaderAndOneFooter and
BodyParsesInOneWay: a well-formed family, with a byte outside each table. -/
theorem witness_wellFormedFamily :
    Config.testFamily.wf = true ∧
    (0x01 ≠ Config.testFamily.hdr ∧ 0x01 ≠ Config.testFamily.ftr ∧ 0x01 ≠ Config.testFamily.esc) ∧
    0x01 ≠ Config.testFamily.phHdr ∧ 0x01 ≠ Config.testFamily.phFtr ∧ 0x01 ≠ Config.testFamily.phEsc := by decide

theorem witness_BodyParsesInOneWay :
    ∃ (p : List Byte) (tokens : List (List Byte)), (∀ t ∈ tokens, ∃ b : Byte, t = escapeByte Config.testFamily b) ∧
      tokens.flatten = escapedBody Config.testFamily p ∧ p.length = 2 :=
  ⟨[0x61, 0x01], [[0x70, 0x62], [0x01]], by
    intro t ht
    simp only [List.mem_cons, List.not_mem_nil, or_false] at ht
    rcases ht with rfl | rfl
    · exact ⟨0x61, by decide⟩
    · exact ⟨0x01, by decide⟩, by decide, rfl⟩

theorem witness_StatusCodesAreRead : (0x0D : Byte) ≤ 0x0D := by decide

theorem witness_HostValuesBeyondThePortAreRejected : 0xFFFF < 0x10000 := by decide

theorem witness_LeftmostEscapeFaultDecides :
    Config.testFamily.wf = true ∧
    (0x70 : Byte) ≠ Config.testFamily.phHdr ∧ (0x70 : Byte) ≠ Config.testFamily.phFtr ∧
    (0x70 : Byte) ≠ Config.testFamily.phEsc := by decide

/-- Both directions of the equivalence have instances. -/
theorem witness_WfFamilyIsExactlyTheRoundTripCondition :
    Config.testFamily.wf = true ∧
    receiveFrom { Config.testFamily with phFtr := 0x62 } .unlimited
      (wireFrame { Config.testFamily with phFtr := 0x62 } [0x63]) = some ((.ok, .frame [0x61] true), []) := by decide

theorem witness_KeyRecordRoundTrip :
    (valid16 0x0001 = true ∧ valid16 0xFFFE = true ∧ admits small.krCap (5 + [(0xAA : Byte)].length) = true) ∧
    (exec (.kdec [0xA0, 0x00, 0x01, 0xFF, 0xFE, 0xAA]) small =
      .next (small.respond .kdec .ok (.item 0x0001 0xFFFE true true [0xAA]))) ∧
    exec (.kenc 0x0001 0xFFFE true true [0xAA]) small =
      .next (small.respond .kenc .ok (.record [0xA0, 0x00, 0x01, 0xFF, 0xFE, 0xAA])) :=
  ⟨by decide, rfl, rfl⟩

/-- Of EveryStepKeepsTheDecoderInvariant, CfgIsNeverWritten, OnlyFencTransmits, EveryCommandGetsExactlyOneResponse and
OnlyTheListedResponsesAreGiven: a state with the invariant, in the middle of a receive, whose step answers. -/
theorem witness_stepAnswers :
    ∃ (s : State) (t : State), s.Inv ∧ s.decState = .recv ∧ step s = .next t ∧ t.tx ≠ s.tx :=
  ⟨scheduled (receiving small [0x01] []) [.command 0x01 OperandRecord.zero], _,
    ⟨fun h => absurd h (by decide), fun _ => ⟨by decide, fun h => absurd h (by decide)⟩⟩, rfl, rfl, by decide⟩

theorem witness_ReceiveStartsAndEndsOnlyByItsCauses :
    (∃ (s : State) (t : State), step s = .next t ∧ s.decState = .idle ∧ t.decState = .recv) ∧
    (∃ (s : State) (t : State), step s = .next t ∧ s.decState = .recv ∧ t.decState = .idle ∧ s.rx = s.cfg.ftr :: t.rx) ∧
    (∃ (s : State) (t : State) (later : List Event),
      step s = .next t ∧ s.decState = .recv ∧ t.decState = .idle ∧ s.schedule = .expire :: later) ∧
    (∃ (s : State) (t : State) (ops : OperandRecord) (later : List Event),
      step s = .next t ∧ s.decState = .recv ∧ t.decState = .idle ∧
      s.schedule = .command 0x03 ops :: later) ∧
    ∃ (s : State) (t : State) (later : List Event),
      step s = .next t ∧ s.decState = .recv ∧ t.decState = .idle ∧ s.schedule = .reset :: later :=
  ⟨⟨scheduled idle [.command 0x02 OperandRecord.zero], _, rfl, rfl, rfl⟩,
   ⟨scheduled (receiving idle [] [0x63]) [.rxStep], _, rfl, rfl, rfl, rfl⟩,
   ⟨scheduled (receiving idle [] []) [.expire], _, _, rfl, rfl, rfl, rfl⟩,
   ⟨scheduled (receiving idle [] []) [.command 0x03 OperandRecord.zero], _, _, _, rfl, rfl, rfl, rfl⟩,
   ⟨scheduled (receiving idle [] []) [.reset], _, _, rfl, rfl, rfl, rfl⟩⟩

theorem witness_PendingReceiveSurvivesOtherCommands :
    ∃ (s : State) (cmd : Byte) (ops : OperandRecord) (rest : List Event),
      s.decState = .recv ∧ s.schedule = .command cmd ops :: rest ∧ cmd ≠ 0x03 :=
  ⟨scheduled (receiving idle [0x01] []) [.command 0x11 OperandRecord.zero], 0x11, OperandRecord.zero, [], by decide⟩

theorem witness_EarlierResponsesAreNeverRead :
    (∃ (s : State) (t : State), step s = .next t) ∧ ∃ (s : State) (r : Fault), step s = .fault r :=
  ⟨⟨scheduled idle [.reset], _, rfl⟩, ⟨scheduled idle [.rxStep], _, rfl⟩⟩

theorem witness_EncoderAndKeyUnitKeepNoState :
    ∃ (s : State) (u : State), s.inst = u.inst ∧ s.decState ≠ u.decState ∧ s.rx ≠ u.rx :=
  ⟨idle, receiving idle [0x01] [0x63], by decide⟩

theorem witness_SecondAbortDoesNothing : ∃ (s : State) (t : State), exec .fabt s = .next t ∧ s.decState = .recv :=
  ⟨receiving idle [0x01] [], _, rfl, rfl⟩

theorem witness_EnabledEventsAlwaysComplete :
    (∃ (s : State) (e : Event) (later : List Event), s.schedule = e :: later ∧ e.enabled s = true) ∧
    (∃ (s : State) (e : Event) (later : List Event),
      s.schedule = e :: later ∧ e.enabled s = false) ∧ ∃ s : State, s.schedule = [] :=
  ⟨⟨scheduled (receiving idle [] [0x63]) [.rxStep], _, _, rfl, rfl⟩, ⟨scheduled idle [.rxStep], _, _, rfl, rfl⟩,
   ⟨idle, rfl⟩⟩

/-- An FDEC; one byte waits, the FOOTER arrives during the receive. -/
theorem witness_ReceiveHasTheClosedForm :
    ∃ (s : State) (ops : OperandRecord) (between later : List Event) (seg rest : List Byte),
      s.decState = .idle ∧
      s.schedule = .command 0x02 ops :: (between ++ .rxStep :: later) ∧
      (∀ e ∈ between, e.endsReceive = false) ∧
      s.cfg.ftr ∉ seg ∧
      s.rx ++ between.flatMap Event.arrivals = seg ++ s.cfg.ftr :: rest ∧
      between.countP Event.isRxStep = seg.length ∧
      ∀ before after, between ++ [Event.rxStep] = before ++ Event.rxStep :: after →
        before.countP Event.isRxStep < s.rx.length + (before.flatMap Event.arrivals).length := by
  refine ⟨scheduled { idle with rx := [0x01] } [.command 0x02 OperandRecord.zero, .rxStep, .rxArrive [0x63], .rxStep],
    OperandRecord.zero, [.rxStep, .rxArrive [0x63]], [], [0x01], [], rfl, rfl, by decide, by decide, by decide, by decide, ?_⟩
  intro before after h
  match before, h with
  | [], _ => decide
  | [_], h => simp at h
  | [_, _], h =>
    simp only [List.cons_append, List.nil_append, List.cons.injEq] at h
    obtain ⟨rfl, rfl, -⟩ := h
    decide
  | _ :: _ :: _ :: _, h =>
    have hl := congrArg List.length h
    simp only [List.length_append, List.length_cons, List.length_nil] at hl
    omega

/-- A dirty decoder, a frame with an escape on rx, and a KENC in between. -/
theorem witness_WireFrameIsReceivedBack :
    ∃ (s : State) (p rest : List Byte) (between later : List Event),
      s.decState = .recv ∧ admits s.bufCap (escapedBody s.cfg p).length = true ∧
      s.rx = wireFrame s.cfg p ++ rest ∧ s.schedule = between ++ .rxStep :: later ∧
      (∀ e ∈ between, e.endsReceive = false) ∧
      between.countP Event.isRxStep + 1 = (wireFrame s.cfg p).length :=
  ⟨scheduled (receiving small [0x70] [0x61, 0x70, 0x64, 0x63, 0x05])
      [.rxStep, .command 0x11 OperandRecord.zero, .rxStep, .rxStep, .rxStep],
    [0x63], [0x05], [.rxStep, .command 0x11 OperandRecord.zero, .rxStep, .rxStep], [], by decide⟩

theorem witness_FramesAreReceivedInOrder :
    ∃ (s : State) (ps : List (List Byte)) (rest : List Byte) (later : List Event),
      s.decState = .idle ∧ (∀ p ∈ ps, admits s.bufCap (escapedBody s.cfg p).length = true) ∧
      s.rx = ps.flatMap (wireFrame s.cfg) ++ rest ∧
      s.schedule = ps.flatMap (fun p => .command 0x02 OperandRecord.zero ::
        List.replicate (wireFrame s.cfg p).length .rxStep) ++ later ∧ ps.length = 2 :=
  ⟨scheduled { small with rx := [0x61, 0x01, 0x63, 0x61, 0x63, 0x05] }
      [.command 0x02 OperandRecord.zero, .rxStep, .rxStep, .rxStep, .command 0x02 OperandRecord.zero, .rxStep, .rxStep],
    [[0x01], []], [0x05], [], by decide⟩

theorem witness_ReceiveAlwaysEnds : ∃ s : State, s.decState = .recv ∧ s.schedule = [] ∧ s.rx ≠ [] :=
  ⟨receiving idle [] [0x61], by decide⟩

theorem witness_KeyRecordCrossesTheLink :
    ∃ (s u : State) (sln kid : Half) (kek erase : Bool) (key rest : List Byte) (later : List Event),
      valid16 sln = true ∧ valid16 kid = true ∧ admits s.krCap (5 + key.length) = true ∧
      u.inst = s.inst ∧ u.decState = .idle ∧
      admits u.bufCap (escapedBody u.cfg (keyRecord sln kid kek erase key)).length = true ∧
      u.rx = wireFrame u.cfg (keyRecord sln kid kek erase key) ++ rest ∧
      u.schedule = .command 0x02 OperandRecord.zero ::
        (List.replicate (wireFrame u.cfg (keyRecord sln kid kek erase key)).length .rxStep ++
          .command 0x12 { OperandRecord.zero with r := keyRecord sln kid kek erase key } :: later) :=
  ⟨idle, scheduled { idle with rx := wireFrame Config.testFamily (keyRecord 0x6170 0x0063 true false [0x61, 0x02]) }
      (.command 0x02 OperandRecord.zero ::
        (List.replicate 13 .rxStep ++
          [.command 0x12 { OperandRecord.zero with r := keyRecord 0x6170 0x0063 true false [0x61, 0x02] }])),
    0x6170, 0x0063, true, false, [0x61, 0x02], [], [], by decide⟩

theorem witness_FailedKsendSendsNothing :
    valid16 0x0000 = false ∧ valid16 0xFFFF = false ∧
    admits small.krCap (5 + [(0x01 : Byte), 0x02].length) = false := by decide

theorem witness_PseudoInstructionsExpand :
    idle.decState = .idle ∧ (receiving idle [] []).decState = .recv ∧ Status.timeout ≠ .ok := by decide

/-- A pending receive with an FDEC, an arrival and an rx step scheduled. -/
theorem witness_ReceiveEndsUnderEverySchedule :
    ∃ s : State, s.decState = .recv ∧ s.schedule.length = 3 ∧ s.rx = [] :=
  ⟨scheduled (receiving idle [] []) [.command 0x02 OperandRecord.zero, .rxArrive [0x61], .rxStep], by decide⟩

/-- A host that never stops: an FDEC, a byte that arrives, expiry, and again without end. -/
def endless : Execution where
  state n :=
    { idle with
      rx := List.replicate ((n + 1) / 3) 0x01
      responses := List.replicate (n / 3) ⟨.fdec, .timeout, .none⟩
      decState := if n % 3 = 0 then .idle else .recv }
  event n := if n % 3 = 0 then .command 0x02 OperandRecord.zero else if n % 3 = 1 then .rxArrive [0x01] else .expire

theorem endless_runs : endless.runs := by
  intro n
  obtain ⟨k, rfl | rfl | rfl⟩ : ∃ k, n = 3 * k ∨ n = 3 * k + 1 ∨ n = 3 * k + 2 := ⟨n / 3, by omega⟩
  · have h1 : (3 * k + 1 + 1) / 3 = (3 * k + 1) / 3 := by omega
    simp [endless, performEvent, commandEvent, exec, execFdec, State.startReceive, idle, State.powerOn, h1]
    omega
  · have h1 : (3 * k + 1 + 1 + 1) / 3 = k + 1 := by omega
    have h2 : (3 * k + 1 + 1) / 3 = k := by omega
    have h3 : (3 * k + 1 + 1) % 3 = 2 := by omega
    have h4 : (3 * k + 1) / 3 = k := by omega
    simp [endless, performEvent, State.rxAppend, h1, h2, h3, h4, List.replicate_succ']
  · have h1 : (3 * k + 2 + 1 + 1) / 3 = k + 1 := by omega
    have h2 : (3 * k + 2 + 1) / 3 = k + 1 := by omega
    have h3 : (3 * k + 2 + 1) % 3 = 0 := by omega
    have h4 : (3 * k + 2) / 3 = k := by omega
    simp [endless, performEvent, expiryEvent, State.endReceive, State.answer, State.respond, State.clearDecoder, idle,
      State.powerOn, h1, h2, h3, h4, List.replicate_succ']

/-- Of FairExecutionsAnswerEveryFdec and ExecutionsBeginAsRunsOfTheStep: an execution in which expiry is weakly fair, the host
never stops issuing and bytes never stop arriving, with a receive pending at step 1. -/
theorem witness_FairExecutionsAnswerEveryFdec : endless.fair ∧ (endless.state 1).decState = .recv :=
  ⟨⟨endless_runs, fun n _ => ⟨3 * n + 2, by omega, by
    have h : (3 * n + 2) % 3 = 2 := by omega
    simp [endless, h]⟩⟩, by decide⟩

/-- A run of three events. -/
theorem witness_FairnessExcludesNoFiniteRun :
    ∃ t, performEvents [.command 0x02 OperandRecord.zero, .rxArrive [0x61], .rxStep] idle = .next t ∧ t.decHdr = true :=
  ⟨_, rfl, rfl⟩

end Sys2Proof.Tests
end

section
/-! SUPPORT. The family checks of 10_state.md R22, and the wire frame through a receive: the law that WF_FAMILY is exactly
the condition under which every payload comes back. -/

namespace Sys2Proof

/-- The three checks of WF_FAMILY (R22), written out. -/
theorem Family.wf_iff (f : Family) :
    f.wf = true ↔
      (f.hdr ≠ f.ftr ∧ f.hdr ≠ f.esc ∧ f.ftr ≠ f.esc) ∧
      (f.phHdr ≠ f.phFtr ∧ f.phHdr ≠ f.phEsc ∧ f.phFtr ≠ f.phEsc) ∧
      (f.phHdr ≠ f.hdr ∧ f.phHdr ≠ f.ftr) ∧ (f.phFtr ≠ f.hdr ∧ f.phFtr ≠ f.ftr) ∧
      (f.phEsc ≠ f.hdr ∧ f.phEsc ≠ f.ftr) := by
  simp [Family.wf, Family.distinctSpecials, Family.distinctPlaceholders, Family.placeholderNotDelimiter, and_assoc]

/-- Parameters may be instantiated where the FAMILY and both capacities pass. -/
theorem Params.wf_iff (p : Params) :
    p.wf = true ↔ p.family.wf = true ∧ (p.bufCap.atLeast 1 && p.krCap.atLeast 5) = true := by
  simp [Params.wf, and_assoc]

end Sys2Proof

namespace Sys2Proof.Machine

/-! The escape of each special byte, and what a placeholder stands for (R78, R79). -/

theorem escapeByte_hdr (f : Family) : escapeByte f f.hdr = [f.esc, f.phHdr] := by simp [escapeByte]

theorem escapeByte_ftr {f : Family} (h : f.hdr ≠ f.ftr) : escapeByte f f.ftr = [f.esc, f.phFtr] := by
  simp [escapeByte, h.symm]

theorem escapeByte_esc {f : Family} (h : f.hdr ≠ f.esc) (h' : f.ftr ≠ f.esc) :
    escapeByte f f.esc = [f.esc, f.phEsc] := by
  simp [escapeByte, h.symm, h'.symm]

theorem escapedBody_singleton (f : Family) (b : Byte) : escapedBody f [b] = escapeByte f b := by
  simp [escapedBody]

/-- Under WF_FAMILY a token is a data byte by itself, or ESC and the placeholder that stands for the byte; the placeholder
is no delimiter. -/
theorem escapeByte_of_wf {f : Family} (hf : f.wf = true) (b : Byte) :
    (∃ c, escapeByte f b = [f.esc, c] ∧ substituted f c = some b ∧ c ≠ f.hdr ∧ c ≠ f.ftr) ∨
    (escapeByte f b = [b] ∧ b ≠ f.hdr ∧ b ≠ f.ftr ∧ b ≠ f.esc) := by
  obtain ⟨⟨hHF, hHE, hFE⟩, ⟨pHF, pHE, pFE⟩, hH, hF, hE⟩ := f.wf_iff.mp hf
  by_cases h1 : b = f.hdr
  · exact .inl ⟨f.phHdr, h1 ▸ escapeByte_hdr f, by simp [substituted, h1], hH⟩
  by_cases h2 : b = f.ftr
  · exact .inl ⟨f.phFtr, h2 ▸ escapeByte_ftr hHF, by simp [substituted, h2, pHF.symm], hF⟩
  by_cases h3 : b = f.esc
  · exact .inl ⟨f.phEsc, h3 ▸ escapeByte_esc hHE hFE, by simp [substituted, h3, pHE.symm, pFE.symm], hE⟩
  · exact .inr ⟨by simp [escapeByte, h1, h2, h3], h1, h2, h3⟩

/-- No delimiter stands inside a body (R103). -/
theorem delimiters_notMem_escapedBody {f : Family} (hf : f.wf = true) (p : List Byte) :
    f.hdr ∉ escapedBody f p ∧ f.ftr ∉ escapedBody f p := by
  obtain ⟨⟨-, hHE, hFE⟩, -⟩ := f.wf_iff.mp hf
  induction p with
  | nil => simp
  | cons b p ih =>
    rcases escapeByte_of_wf hf b with ⟨c, he, -, hcH, hcF⟩ | ⟨he, hbH, hbF, -⟩
    · simp [escapedBody_cons, he, ih, hHE, hFE, hcH.symm, hcF.symm]
    · simp [escapedBody_cons, he, ih, hbH.symm, hbF.symm]

/-- The unescape pass over a body writes its payload and goes on with what follows it. -/
theorem unescapeFrom_escapedBody {f : Family} (hf : f.wf = true) (out p rest : List Byte) :
    unescapeFrom f out (escapedBody f p ++ rest) = unescapeFrom f (out ++ p) rest := by
  induction p generalizing out with
  | nil => simp
  | cons b p ih =>
    rcases escapeByte_of_wf hf b with ⟨c, he, hc, -⟩ | ⟨he, -, -, hb⟩
    · simp [escapedBody_cons, he, unescapeFrom_escape f out _ hc, ih]
    · simp [escapedBody_cons, he, unescapeFrom_data f out _ hb, ih]

theorem unescape_escapedBody {f : Family} (hf : f.wf = true) (p : List Byte) :
    unescape f (escapedBody f p) = (.ok, p) := by
  simpa [unescape] using unescapeFrom_escapedBody hf [] p []

/-! The split at the first FOOTER, and the closed form of a receive (R135). -/

/-- A footer byte is classed as FOOTER where it is no header byte too (R77). -/
theorem classOf_footer_iff (f : Family) (b : Byte) : classOf f b = .footer ↔ f.hdr ≠ f.ftr ∧ b = f.ftr := by
  unfold classOf
  by_cases h : b = f.ftr
  · simp [h, eq_comm]
  · by_cases h2 : b = f.hdr <;> simp [h, h2]

theorem splitAtFooter_cons_footer {f : Family} {b : Byte} (bytes : List Byte) (h : classOf f b = .footer) :
    splitAtFooter f (b :: bytes) = some ([], bytes) := by
  simp [splitAtFooter, h]

theorem splitAtFooter_cons_other {f : Family} {b : Byte} (bytes : List Byte) (h : classOf f b ≠ .footer) :
    splitAtFooter f (b :: bytes) = (splitAtFooter f bytes).map fun q => (b :: q.1, q.2) := by
  simp only [splitAtFooter, if_neg h]
  split <;> simp [*]

/-- A stream is split where its first FOOTER stands, and only where HDR and FTR differ. -/
theorem splitAtFooter_eq_some {f : Family} {bytes seg left : List Byte} :
    splitAtFooter f bytes = some (seg, left) ↔ f.hdr ≠ f.ftr ∧ f.ftr ∉ seg ∧ bytes = seg ++ f.ftr :: left := by
  induction bytes generalizing seg left with
  | nil => simp [splitAtFooter]
  | cons b bytes ih =>
    by_cases hb : classOf f b = .footer
    · obtain ⟨hne, rfl⟩ := (classOf_footer_iff f b).mp hb
      rw [splitAtFooter_cons_footer bytes hb]
      cases seg <;> simp +contextual [hne, eq_comm]
    · have hb' : f.hdr ≠ f.ftr → f.ftr ≠ b := fun hne h => hb ((classOf_footer_iff f b).mpr ⟨hne, h.symm⟩)
      rw [splitAtFooter_cons_other bytes hb]
      cases seg with
      | nil => simpa using fun hne h => absurd h.symm (hb' hne)
      | cons c seg =>
        simp only [Option.map_eq_some_iff, Prod.exists, Prod.mk.injEq, List.cons.injEq, List.cons_append, ih]
        constructor
        · rintro ⟨_, _, ⟨hne, hseg, hbytes⟩, ⟨rfl, rfl⟩, rfl⟩
          exact ⟨hne, by simp [hseg, hb' hne], rfl, hbytes⟩
        · rintro ⟨hne, hseg, rfl, hbytes⟩
          exact ⟨seg, left, ⟨hne, fun h => hseg (List.mem_cons_of_mem _ h), hbytes⟩, ⟨rfl, rfl⟩, rfl⟩

/-- The first FOOTER of a wire frame is its last byte exactly where the body holds none. -/
theorem splitAtFooter_wireFrame {f : Family} {p seg : List Byte} :
    splitAtFooter f (wireFrame f p) = some (seg, []) ↔
      f.hdr ≠ f.ftr ∧ f.ftr ∉ escapedBody f p ∧ seg = f.hdr :: escapedBody f p := by
  rw [splitAtFooter_eq_some]
  constructor
  · rintro ⟨hne, hmem, heq⟩
    obtain rfl : f.hdr :: escapedBody f p = seg := List.append_cancel_right heq
    exact ⟨hne, fun h => hmem (List.mem_cons_of_mem _ h), rfl⟩
  · rintro ⟨hne, hmem, rfl⟩
    exact ⟨hne, by simp [hmem, hne.symm], rfl⟩

theorem receiveFrom_eq_some {f : Family} {cap : Cap} {bytes left : List Byte} {r : Status × ResultFields} :
    receiveFrom f cap bytes = some (r, left) ↔
      ∃ seg, splitAtFooter f bytes = some (seg, left) ∧ closedReceive f cap seg = r := by
  unfold receiveFrom
  cases splitAtFooter f bytes with
  | none => simp
  | some q =>
    obtain ⟨seg, rest⟩ := q
    simp [and_comm]

/-- A receive of a wire frame uses up the whole frame exactly where its last byte is the first FOOTER; the result is that of
the HEADER and the body. -/
theorem receiveFrom_wireFrame {f : Family} {cap : Cap} {p : List Byte} {r : Status × ResultFields} :
    receiveFrom f cap (wireFrame f p) = some (r, []) ↔
      f.hdr ≠ f.ftr ∧ f.ftr ∉ escapedBody f p ∧ closedReceive f cap (f.hdr :: escapedBody f p) = r := by
  simp [receiveFrom_eq_some, splitAtFooter_wireFrame, and_assoc]

/-- The HEADER of a frame is its last one where the body holds none. -/
theorem afterLastHeader_hdr_cons {f : Family} {body : List Byte} (h : f.hdr ∉ body) :
    afterLastHeader f (f.hdr :: body) = 1 := by
  simp [afterLastHeader, h]

/-- With no buffer limit, a body without a HEADER is given to the unescape pass whole. -/
theorem closedReceive_frame {f : Family} {body : List Byte} (h : f.hdr ∉ body) :
    closedReceive f .unlimited (f.hdr :: body) = frameResult (unescape f body) true := by
  simp [closedReceive, afterLastHeader_hdr_cons h, admits]

/-- WF_FAMILY is sufficient (R132). -/
theorem receiveFrom_wireFrame_of_wf {f : Family} (hf : f.wf = true) (p : List Byte) :
    receiveFrom f .unlimited (wireFrame f p) = some ((.ok, .frame p true), []) := by
  obtain ⟨⟨hne, -⟩, -⟩ := f.wf_iff.mp hf
  obtain ⟨hH, hF⟩ := delimiters_notMem_escapedBody hf p
  refine receiveFrom_wireFrame.mpr ⟨hne, hF, ?_⟩
  rw [closedReceive_frame hH, unescape_escapedBody hf, frameResult_ok]

/-- What a frame of one escape sequence must meet to give a byte back: its second byte is no HEADER, as otherwise the body
is discarded, and stands for that byte unless ESC is itself a HEADER and discarded. -/
theorem closedReceive_escape {f : Family} {c x : Byte}
    (h : closedReceive f .unlimited [f.hdr, f.esc, c] = (.ok, .frame [x] true)) :
    c ≠ f.hdr ∧ (f.esc = f.hdr → c = x) ∧ (f.esc ≠ f.hdr → substituted f c = some x) := by
  have hc : c ≠ f.hdr := by
    rintro rfl
    simp [closedReceive, afterLastHeader, admits, unescape, frameResult_ok] at h
  refine ⟨hc, fun he => ?_, fun he => ?_⟩
  · have hce : c ≠ f.esc := he ▸ hc
    simpa [closedReceive, afterLastHeader, admits, he, hc.symm, unescape, unescapeFrom_data f [] [] hce, frameResult_ok]
      using h
  · rw [closedReceive_frame (by simp [he.symm, hc.symm]), unescape] at h
    cases hs : substituted f c with
    | none => simp [unescapeFrom_bad f [] [] hs, frameResult] at h
    | some d => simpa [unescapeFrom_escape f [] [] hs, frameResult_ok] using h

/-- WF_FAMILY is necessary: the frames of the three special bytes alone decide every check, as in 95_test_vectors.md
section 2.6. -/
theorem wf_of_special_bytes_return {f : Family}
    (h : ∀ x, x = f.hdr ∨ x = f.ftr ∨ x = f.esc →
      receiveFrom f .unlimited (wireFrame f [x]) = some ((.ok, .frame [x] true), [])) :
    f.wf = true := by
  obtain ⟨hHF, hmemH, hH⟩ := receiveFrom_wireFrame.mp (h f.hdr (.inl rfl))
  obtain ⟨-, hmemF, hF⟩ := receiveFrom_wireFrame.mp (h f.ftr (.inr (.inl rfl)))
  obtain ⟨-, hmemE, hE⟩ := receiveFrom_wireFrame.mp (h f.esc (.inr (.inr rfl)))
  rw [escapedBody_singleton, escapeByte_hdr] at hmemH hH
  rw [escapedBody_singleton, escapeByte_ftr hHF] at hmemF hF
  simp only [List.mem_cons, List.not_mem_nil, or_false, not_or] at hmemH hmemF
  obtain ⟨pH, hHsame, hHsub⟩ := closedReceive_escape hH
  obtain ⟨pF, -, hFsub⟩ := closedReceive_escape hF
  have hEH : f.esc ≠ f.hdr := fun he => pH (hHsame he)
  rw [escapedBody_singleton, escapeByte_esc hEH.symm hmemH.1] at hmemE hE
  simp only [List.mem_cons, List.not_mem_nil, or_false, not_or] at hmemE
  obtain ⟨pE, -, hEsub⟩ := closedReceive_escape hE
  have hdistinct : ∀ {c d x y : Byte}, substituted f c = some x → substituted f d = some y → x ≠ y → c ≠ d := by
    rintro c d x y hc hd hxy rfl
    exact hxy (Option.some.inj (hc.symm.trans hd))
  exact f.wf_iff.mpr ⟨⟨hHF, hEH.symm, hmemH.1⟩,
    ⟨hdistinct (hHsub hEH) (hFsub hEH) hHF, hdistinct (hHsub hEH) (hEsub hEH) hEH.symm,
      hdistinct (hFsub hEH) (hEsub hEH) hmemH.1⟩,
    ⟨pH, Ne.symm hmemH.2⟩, ⟨pF, Ne.symm hmemF.2⟩, ⟨pE, Ne.symm hmemE.2⟩⟩

/-- Settles O32: the law of R132 in one direction, the frames of HDR, FTR and ESC in the other. -/
theorem wfFamilyIsExactlyTheRoundTripCondition : Obligations.WfFamilyIsExactlyTheRoundTripCondition := fun _ =>
  ⟨receiveFrom_wireFrame_of_wf, fun h => wf_of_special_bytes_return fun x _ => h [x]⟩

end Sys2Proof.Machine
end

section
/-! SUPPORT. What every event and every step can do, said once as an inversion, with the field lemmas of the operations that
close or continue a receive. -/

namespace Sys2Proof.Machine

/-! Fields after `closeReceive`, `resetEvent`, `complete` and `receiveByte`. -/

@[simp] theorem State.closeReceive_inst (s : State) : s.closeReceive.inst = s.inst := by
  rcases s.closeReceive_cases with ⟨-, h⟩ | ⟨-, h⟩ <;> simp [h]

@[simp] theorem State.closeReceive_decState (s : State) : s.closeReceive.decState = .idle := by
  rcases s.closeReceive_cases with ⟨-, h⟩ | ⟨hd, h⟩
  · simp [h]
  · simp [h, hd]

@[simp] theorem State.closeReceive_rx (s : State) : s.closeReceive.rx = s.rx := by
  rcases s.closeReceive_cases with ⟨-, h⟩ | ⟨-, h⟩ <;> simp [h]

@[simp] theorem State.closeReceive_tx (s : State) : s.closeReceive.tx = s.tx := by
  rcases s.closeReceive_cases with ⟨-, h⟩ | ⟨-, h⟩ <;> simp [h]

@[simp] theorem State.resetEvent_inst (s : State) : s.resetEvent.inst = s.inst := by simp [State.resetEvent]
@[simp] theorem State.resetEvent_decState (s : State) : s.resetEvent.decState = .idle := rfl
@[simp] theorem State.resetEvent_rx (s : State) : s.resetEvent.rx = s.rx := by simp [State.resetEvent]
@[simp] theorem State.resetEvent_tx (s : State) : s.resetEvent.tx = s.tx := by simp [State.resetEvent]

@[simp] theorem State.complete_inst (s : State) : s.complete.inst = s.inst := rfl
@[simp] theorem State.complete_decState (s : State) : s.complete.decState = .idle := rfl
@[simp] theorem State.complete_rx (s : State) : s.complete.rx = s.rx := rfl
@[simp] theorem State.complete_tx (s : State) : s.complete.tx = s.tx := rfl

@[simp] theorem State.receiveByte_inst (s : State) (b : Byte) : (s.receiveByte b).inst = s.inst := by
  rcases s.receiveByte_cases b with ⟨-, h⟩ | ⟨-, -, h⟩ | ⟨-, -, -, h⟩ | ⟨-, -, -, h⟩ <;> simp [h]

@[simp] theorem State.receiveByte_rx (s : State) (b : Byte) : (s.receiveByte b).rx = s.rx := by
  rcases s.receiveByte_cases b with ⟨-, h⟩ | ⟨-, -, h⟩ | ⟨-, -, -, h⟩ | ⟨-, -, -, h⟩ <;> simp [h]

@[simp] theorem State.receiveByte_tx (s : State) (b : Byte) : (s.receiveByte b).tx = s.tx := by
  rcases s.receiveByte_cases b with ⟨-, h⟩ | ⟨-, -, h⟩ | ⟨-, -, -, h⟩ | ⟨-, -, -, h⟩ <;> simp [h]

/-- Only a FOOTER ends the receive that a byte belongs to (R123). -/
theorem State.receiveByte_ends {s : State} {b : Byte} (hs : s.decState = .recv)
    (h : (s.receiveByte b).decState = .idle) : b = s.cfg.ftr ∧ s.receiveByte b = s.complete := by
  rcases s.receiveByte_cases b with ⟨-, h'⟩ | ⟨-, hb, h'⟩ | ⟨-, -, -, h'⟩ | ⟨-, -, -, h'⟩
  · simp [h', hs] at h
  · exact ⟨hb, h'⟩
  · simp [h', hs] at h
  · simp [h', hs] at h

/-! The command words. -/

/-- A word other than the five of R71 is reserved (R72). -/
theorem decode_reserved {cmd : Byte} (ops : OperandRecord) (hfenc : cmd ≠ 0x01) (hfdec : cmd ≠ 0x02)
    (hfabt : cmd ≠ 0x03) (hkenc : cmd ≠ 0x11) (hkdec : cmd ≠ 0x12) :
    decode cmd ops = .error (.reservedCmd cmd) := by
  have word : ∀ c : Byte,
      (cmdUnit c = 0x0 → cmdOp c = 0x1 → c = 0x01) ∧ (cmdUnit c = 0x0 → cmdOp c = 0x2 → c = 0x02) ∧
      (cmdUnit c = 0x0 → cmdOp c = 0x3 → c = 0x03) ∧ (cmdUnit c = 0x1 → cmdOp c = 0x1 → c = 0x11) ∧
      (cmdUnit c = 0x1 → cmdOp c = 0x2 → c = 0x12) := by decide
  obtain ⟨fenc, fdec, fabt, kenc, kdec⟩ := word cmd
  unfold decode
  split_ifs with hunit h1 h2 h3 hunit' h1 h2
  · exact absurd (fenc hunit h1) hfenc
  · exact absurd (fdec hunit h2) hfdec
  · exact absurd (fabt hunit h3) hfabt
  · rfl
  · exact absurd (kenc hunit' h1) hkenc
  · exact absurd (kdec hunit' h2) hkdec
  · rfl
  · rfl

/-- What each event makes of a state: one case for each command, the BUSY answer, a reserved word, and each other event. -/
inductive EventEffect (s : State) : Event → State → Prop where
  | fenc (ops : OperandRecord) :
    EventEffect s (.command 0x01 ops)
      (({ s with tx := s.tx ++ wireFrame s.cfg ops.p } : State).respond .fenc .ok .none)
  | fdecStarts (ops : OperandRecord) (hd : s.decState = .idle) : EventEffect s (.command 0x02 ops) s.startReceive
  | fdecBusy (ops : OperandRecord) (hd : s.decState = .recv) :
    EventEffect s (.command 0x02 ops) (s.raise .fdec .busy)
  | fabt (ops : OperandRecord) : EventEffect s (.command 0x03 ops) (s.closeReceive.respond .fabt .ok .none)
  | kenc (ops : OperandRecord) :
    EventEffect s (.command 0x11 ops)
      (s.answer .kenc (kencResult s.krCap ops.sln ops.kid ops.kek ops.erase ops.key))
  | kdec (ops : OperandRecord) : EventEffect s (.command 0x12 ops) (s.answer .kdec (kdecResult s.krCap ops.r))
  | reserved (cmd : Byte) (ops : OperandRecord)
    (hfenc : cmd ≠ 0x01) (hfdec : cmd ≠ 0x02) (hfabt : cmd ≠ 0x03) (hkenc : cmd ≠ 0x11) (hkdec : cmd ≠ 0x12) :
    EventEffect s (.command cmd ops) (s.raise (.reserved cmd) .illegalCmd)
  | rxArrive (bs : List Byte) : EventEffect s (.rxArrive bs) (s.rxAppend bs)
  | rxStep (b : Byte) (rest : List Byte) (hd : s.decState = .recv) (hr : s.rx = b :: rest) :
    EventEffect s .rxStep (({ s with rx := rest } : State).receiveByte b)
  | expire (hd : s.decState = .recv) : EventEffect s .expire (s.endReceive (.timeout, .none))
  | reset : EventEffect s .reset s.resetEvent

/-- The inversion of a command event. -/
theorem commandEvent_effect {cmd : Byte} {ops : OperandRecord} {s t : State} (h : commandEvent cmd ops s = .next t) :
    EventEffect s (.command cmd ops) t := by
  by_cases hfenc : cmd = 0x01
  · subst hfenc
    rw [show commandEvent 0x01 ops s = _ from exec_fenc ops.p s, State.txPushAll_eq] at h
    cases h
    exact .fenc ops
  by_cases hfdec : cmd = 0x02
  · subst hfdec
    have hexec : exec .fdec s = .next t := h
    cases hd : s.decState with
    | idle =>
      rw [exec_fdec_idle hd] at hexec
      cases hexec
      exact .fdecStarts ops hd
    | recv =>
      rw [exec_fdec_recv hd] at hexec
      cases hexec
      exact .fdecBusy ops hd
  by_cases hfabt : cmd = 0x03
  · subst hfabt
    cases h
    exact .fabt ops
  by_cases hkenc : cmd = 0x11
  · subst hkenc
    cases h
    exact .kenc ops
  by_cases hkdec : cmd = 0x12
  · subst hkdec
    cases h
    exact .kdec ops
  rw [commandEvent, decode_reserved ops hfenc hfdec hfabt hkenc hkdec] at h
  cases h
  exact .reserved cmd ops hfenc hfdec hfabt hkenc hkdec

/-- The inversion of an event: where it answers, the state is what `EventEffect` says. -/
theorem performEvent_effect {e : Event} {s t : State} (h : performEvent e s = .next t) : EventEffect s e t := by
  cases e with
  | command cmd ops => exact commandEvent_effect h
  | rxArrive bs =>
    cases h
    exact .rxArrive bs
  | rxStep =>
    obtain ⟨hd, b, rest, hr, rfl⟩ := rxStepEvent_next.mp h
    exact .rxStep b rest hd hr
  | expire =>
    obtain ⟨hd, rfl⟩ := expiryEvent_next.mp h
    exact .expire hd
  | reset =>
    cases h
    exact .reset

/-- The block's own move with a byte waiting (entry 7). -/
theorem autonomousStep_draw {s : State} {b : Byte} {rest : List Byte} (hd : s.decState = .recv) (hr : s.rx = b :: rest) :
    autonomousStep s =
      if Config.freeExpiry s.draws then expiryEvent { s with draws := s.draws + 1 }
      else rxStepEvent { s with draws := s.draws + 1 } := by
  simp [autonomousStep, hd, hr]

/-- The inversion of a step: the next event of the schedule, no move in IDLE, or the block's own expiry or rx step in RECV,
which may have drawn a free choice (entry 7). -/
theorem step_next_cases {s t : State} (h : step s = .next t) :
    (∃ e later, s.schedule = e :: later ∧ EventEffect { s with schedule := later } e t) ∨
    (s.schedule = [] ∧ s.decState = .idle ∧ t = s) ∨
    (s.schedule = [] ∧ s.decState = .recv ∧
      ∃ e d, (e = .expire ∨ e = .rxStep) ∧ EventEffect { s with draws := d } e t) := by
  by_cases hs : s.schedule = []
  · rw [step_unscheduled hs] at h
    rcases autonomousStep_cases s with ⟨hd, ha⟩ | ⟨hd, -, ha⟩ | ⟨hd, -, ha⟩ | ⟨hd, -, ha⟩ <;> rw [ha] at h
    · cases h
      exact .inr (.inl ⟨hs, hd, rfl⟩)
    · exact .inr (.inr ⟨hs, hd, .expire, s.draws, .inl rfl, performEvent_effect (e := .expire) h⟩)
    · exact .inr (.inr ⟨hs, hd, .expire, _, .inl rfl, performEvent_effect (e := .expire) h⟩)
    · exact .inr (.inr ⟨hs, hd, .rxStep, _, .inr rfl, performEvent_effect (e := .rxStep) h⟩)
  · obtain ⟨e, later, hs⟩ := List.exists_cons_of_ne_nil hs
    exact .inl ⟨e, later, hs, performEvent_effect (step_scheduled hs ▸ h)⟩

end Sys2Proof.Machine
end

section
/-! The statements of 10_state.md about every step. -/

namespace Sys2Proof.Machine

/-! R21: the parameters are fixed. -/

/-- No event changes the parameters. -/
theorem EventEffect.inst {e : Event} {s t : State} (h : EventEffect s e t) : t.inst = s.inst := by
  cases h <;> simp

/-- Settles O36: no event writes `inst`, from which CFG is read. -/
theorem cfgIsNeverWritten : Obligations.CfgIsNeverWritten := by
  intro s t h
  have hinst : t.inst = s.inst := by
    rcases step_next_cases h with ⟨_, _, -, he⟩ | ⟨-, -, rfl⟩ | ⟨-, -, _, _, -, he⟩
    · exact he.inst
    · rfl
    · exact he.inst
  exact ⟨hinst, congrArg (fun i => i.params.family) hinst⟩

/-! R29 and R56: what is transmitted. -/

theorem payloads_of_ne_fenc {cmd : Byte} (ops : OperandRecord) (h : cmd ≠ 0x01) :
    (Event.command cmd ops).payloads = [] := if_neg h

/-- An event transmits the wire frames of its payloads and nothing else. -/
theorem EventEffect.tx {e : Event} {s t : State} (h : EventEffect s e t) :
    t.tx = s.tx ++ e.payloads.flatMap (wireFrame s.cfg) := by
  cases h with
  | reserved cmd ops hfenc => simp [payloads_of_ne_fenc ops hfenc]
  | _ => simp [Event.payloads]

/-- Settles O37: FENC alone has a payload, and the block's own moves are no FENC. -/
theorem onlyFencTransmits : Obligations.OnlyFencTransmits := by
  intro s t h
  rcases step_next_cases h with ⟨e, later, hs, he⟩ | ⟨hs, -, rfl⟩ | ⟨hs, -, e, d, rfl | rfl, he⟩
  · rw [hs]
    exact he.tx
  · simp [hs]
  · simpa [hs, Event.payloads] using he.tx
  · simpa [hs, Event.payloads] using he.tx

/-! R24: how a receive starts and ends. -/

/-- A receive starts by an FDEC, which has no response yet (R120): every other event is not enabled in IDLE or keeps it. -/
theorem EventEffect.starts {e : Event} {s t : State} (h : EventEffect s e t) (hs : s.decState = .idle)
    (ht : t.decState = .recv) : (∃ ops, e = .command 0x02 ops) ∧ t.responses = s.responses := by
  cases h with
  | fdecStarts ops => exact ⟨⟨ops, rfl⟩, rfl⟩
  | _ => simp_all

/-- `t` is `s` after the end of its receive by the event `e`: a FOOTER, expiry, FABT or reset, with the responses of each. -/
inductive ReceiveEnd (s t : State) : Event → Prop where
  | footer (rest : List Byte) (hs : s.rx = s.cfg.ftr :: rest) (ht : t.rx = rest)
    (hresp : t.responses = s.responses ++
      [⟨.fdec, (completionResult s.cfg s.decBuf s.decOvf s.decHdr).1,
        (completionResult s.cfg s.decBuf s.decOvf s.decHdr).2⟩]) : ReceiveEnd s t .rxStep
  | expiry (hrx : t.rx = s.rx) (hresp : t.responses = s.responses ++ [⟨.fdec, .timeout, .none⟩]) :
    ReceiveEnd s t .expire
  | abort (ops : OperandRecord) (hrx : t.rx = s.rx)
    (hresp : t.responses = s.responses ++ [⟨.fdec, .closed, .none⟩, ⟨.fabt, .ok, .none⟩]) :
    ReceiveEnd s t (.command 0x03 ops)
  | reset (hrx : t.rx = s.rx) (hresp : t.responses = s.responses ++ [⟨.fdec, .closed, .none⟩]) :
    ReceiveEnd s t .reset

/-- A receive ends by one of its four causes: every other event is not enabled in RECV or keeps it. -/
theorem EventEffect.ends {e : Event} {s t : State} (h : EventEffect s e t) (hs : s.decState = .recv)
    (ht : t.decState = .idle) : ReceiveEnd s t e := by
  cases h with
  | rxStep b rest hd hr =>
    obtain ⟨hb, hc⟩ := State.receiveByte_ends (s := { s with rx := rest }) hs ht
    exact .footer rest (hr.trans (by rw [hb]; rfl)) (by simp) (by rw [hc]; rfl)
  | expire hd => exact .expiry rfl rfl
  | fabt ops => exact .abort ops (by simp) (by simp [State.closeReceive_recv hs])
  | reset => exact .reset (by simp) (by simp [State.resetEvent, State.closeReceive_recv hs])
  | _ => simp_all

/-- Settles O38: the start and the four ends of a receive, for a scheduled event and for the block's own move. -/
theorem receiveStartsAndEndsOnlyByItsCauses : Obligations.ReceiveStartsAndEndsOnlyByItsCauses := by
  intro s t h
  rcases step_next_cases h with ⟨e, later, hs, he⟩ | ⟨hs, hd, rfl⟩ | ⟨hs, hd, e, d, he', he⟩
  · refine ⟨fun hd ht => ?_, fun hd ht => ?_⟩
    · obtain ⟨⟨ops, rfl⟩, hr⟩ := he.starts hd ht
      exact ⟨ops, later, hs, hr⟩
    · cases he.ends hd ht with
      | footer rest hrx ht hresp => exact .inl ⟨rest, .inr ⟨later, hs⟩, hrx, ht, hresp⟩
      | expiry hrx hresp => exact .inr (.inl ⟨.inr ⟨later, hs⟩, hrx, hresp⟩)
      | abort ops hrx hresp => exact .inr (.inr (.inl ⟨ops, later, hs, hrx, hresp⟩))
      | reset hrx hresp => exact .inr (.inr (.inr ⟨later, hs, hrx, hresp⟩))
  · simp [hd]
  · refine ⟨fun hd' => by simp [hd] at hd', fun _ ht => ?_⟩
    cases he.ends hd ht with
    | footer rest hrx ht hresp => exact .inl ⟨rest, .inl hs, hrx, ht, hresp⟩
    | expiry hrx hresp => exact .inr (.inl ⟨.inl hs, hrx, hresp⟩)
    | abort => simp at he'
    | reset => simp at he'

end Sys2Proof.Machine
end

section
/-! R33: what was answered before is in no step's way. -/

namespace Sys2Proof.Machine

/-- The state with more responses given before those it lists. -/
def State.withEarlier (l : List Response) (s : State) : State := { s with responses := l ++ s.responses }

/-- The same for the state that an outcome answers with. -/
def outcomeWithEarlier (l : List Response) :
    Host.Outcome State Fault Refusal → Host.Outcome State Fault Refusal
  | .next t => .next (t.withEarlier l)
  | .fault r => .fault r
  | .refused r => .refused r

section

variable (l : List Response) (s : State)

/-! The fields that a step reads. -/

@[simp] theorem State.withEarlier_cfg : (s.withEarlier l).cfg = s.cfg := rfl
@[simp] theorem State.withEarlier_bufCap : (s.withEarlier l).bufCap = s.bufCap := rfl
@[simp] theorem State.withEarlier_decState : (s.withEarlier l).decState = s.decState := rfl
@[simp] theorem State.withEarlier_decBuf : (s.withEarlier l).decBuf = s.decBuf := rfl
@[simp] theorem State.withEarlier_rx : (s.withEarlier l).rx = s.rx := rfl
@[simp] theorem State.withEarlier_schedule : (s.withEarlier l).schedule = s.schedule := rfl
@[simp] theorem State.withEarlier_draws : (s.withEarlier l).draws = s.draws := rfl

/-! Each operation gives what it gave, with the earlier responses before it. -/

theorem State.respond_withEarlier (who : Responder) (st : Status) (fs : ResultFields) :
    (s.withEarlier l).respond who st fs = (s.respond who st fs).withEarlier l := by
  simp [State.withEarlier, State.respond]

theorem State.endReceive_withEarlier (r : Status × ResultFields) :
    (s.withEarlier l).endReceive r = (s.endReceive r).withEarlier l :=
  s.clearDecoder.respond_withEarlier l .fdec r.1 r.2

theorem State.closeReceive_withEarlier : (s.withEarlier l).closeReceive = s.closeReceive.withEarlier l := by
  rcases s.closeReceive_cases with ⟨hd, h⟩ | ⟨hd, h⟩
  · rw [h, ← State.endReceive_withEarlier]
    exact State.closeReceive_recv hd
  · rw [h]
    exact State.closeReceive_idle hd

theorem State.receiveByte_withEarlier (b : Byte) :
    (s.withEarlier l).receiveByte b = (s.receiveByte b).withEarlier l := by
  unfold State.receiveByte State.receiveData
  rw [State.withEarlier_cfg, State.withEarlier_bufCap, State.withEarlier_decBuf]
  cases classOf s.cfg b with
  | header => rfl
  | footer => exact s.endReceive_withEarlier l _
  | data => cases hasRoom s.bufCap s.decBuf.length <;> rfl

theorem exec_withEarlier (i : Instr) : exec i (s.withEarlier l) = outcomeWithEarlier l (exec i s) := by
  cases i with
  | fenc p =>
    simp only [exec_fenc, State.txPushAll_eq, outcomeWithEarlier, ← State.respond_withEarlier]
    rfl
  | fdec =>
    cases hd : s.decState with
    | idle =>
      rw [exec_fdec_idle hd]
      exact exec_fdec_idle hd
    | recv =>
      rw [exec_fdec_recv hd, outcomeWithEarlier, State.raise, ← State.respond_withEarlier]
      exact exec_fdec_recv hd
  | fabt => simp only [exec_fabt, outcomeWithEarlier, State.closeReceive_withEarlier, State.respond_withEarlier]
  | kenc sln kid kek erase key => exact congrArg _ (s.respond_withEarlier l _ _ _)
  | kdec r => exact congrArg _ (s.respond_withEarlier l _ _ _)

theorem commandEvent_withEarlier (cmd : Byte) (ops : OperandRecord) :
    commandEvent cmd ops (s.withEarlier l) = outcomeWithEarlier l (commandEvent cmd ops s) := by
  unfold commandEvent
  cases decode cmd ops with
  | ok i => exact exec_withEarlier l s i
  | error e => exact congrArg _ (s.respond_withEarlier l _ _ _)

theorem State.rxPull_withEarlier :
    (s.withEarlier l).rxPull = s.rxPull.map fun q => (q.1, q.2.withEarlier l) := by
  unfold State.rxPull
  rw [State.withEarlier_decState, State.withEarlier_rx]
  cases s.decState with
  | idle => rfl
  | recv => cases s.rx <;> rfl

theorem rxStepEvent_withEarlier : rxStepEvent (s.withEarlier l) = outcomeWithEarlier l (rxStepEvent s) := by
  unfold rxStepEvent
  rw [State.rxPull_withEarlier]
  cases s.rxPull with
  | none => rfl
  | some q => exact congrArg _ (q.2.receiveByte_withEarlier l q.1)

theorem expiryEvent_withEarlier : expiryEvent (s.withEarlier l) = outcomeWithEarlier l (expiryEvent s) := by
  unfold expiryEvent
  rw [State.withEarlier_decState]
  cases s.decState with
  | idle => rfl
  | recv => exact congrArg _ (s.endReceive_withEarlier l _)

theorem performEvent_withEarlier (e : Event) :
    performEvent e (s.withEarlier l) = outcomeWithEarlier l (performEvent e s) := by
  cases e with
  | command cmd ops => exact commandEvent_withEarlier l s cmd ops
  | rxArrive bs => rfl
  | rxStep => exact rxStepEvent_withEarlier l s
  | expire => exact expiryEvent_withEarlier l s
  | reset => exact congrArg (fun t : State => Host.Outcome.next t.clearDecoder) (s.closeReceive_withEarlier l)

theorem autonomousStep_withEarlier :
    autonomousStep (s.withEarlier l) = outcomeWithEarlier l (autonomousStep s) := by
  cases hd : s.decState with
  | idle => simp [autonomousStep, hd, outcomeWithEarlier]
  | recv =>
    cases hr : s.rx with
    | nil => simp [autonomousStep, hd, hr, expiryEvent_withEarlier]
    | cons b rest =>
      rw [autonomousStep_draw hd hr, autonomousStep_draw (s := s.withEarlier l) hd hr, State.withEarlier_draws]
      cases Config.freeExpiry s.draws with
      | true => exact expiryEvent_withEarlier l { s with draws := s.draws + 1 }
      | false => exact rxStepEvent_withEarlier l { s with draws := s.draws + 1 }

theorem step_withEarlier : step (s.withEarlier l) = outcomeWithEarlier l (step s) := by
  unfold step
  rw [State.withEarlier_schedule]
  cases s.schedule with
  | nil => exact autonomousStep_withEarlier l s
  | cons e later => exact performEvent_withEarlier l { s with schedule := later } e

end

/-- Settles O42: a step and the earlier responses commute. -/
theorem earlierResponsesAreNeverRead : Obligations.EarlierResponsesAreNeverRead := by
  intro s earlier
  refine ⟨fun t h => ?_, fun r h => ?_⟩
  · exact (step_withEarlier earlier s).trans (by rw [h]; rfl)
  · exact (step_withEarlier earlier s).trans (by rw [h]; rfl)

end Sys2Proof.Machine
end

section
/-! R28, and the refusal of parameters (R22, R7, R8). -/

namespace Sys2Proof.Machine

/-- Settles O17: the arrival is the append of `rxAppend`. -/
theorem arrivingBytesJoinTheTail : Obligations.ArrivingBytesJoinTheTail := fun _ _ => rfl

theorem State.instantiate_of_illFormedFamily {p : Params} (h : p.family.wf = false) :
    State.instantiate p = .refused .illFormedFamily := by
  have hp : ¬ p.wf = true := by simp [Params.wf_iff, h]
  simp [State.instantiate, hp, h]

theorem State.instantiate_of_illFormedCapacity {p : Params} (h : p.family.wf = true)
    (hcap : (p.bufCap.atLeast 1 && p.krCap.atLeast 5) = false) :
    State.instantiate p = .refused .illFormedCapacity := by
  have hp : ¬ p.wf = true := by simp only [Params.wf_iff, hcap, Bool.false_eq_true, and_false, not_false_eq_true]
  simp [State.instantiate, hp, h]

/-- Settles O20: the three checks by `Family.wf_iff`, and the three outcomes of instantiation. -/
theorem illFormedFamilyIsRefused : Obligations.IllFormedFamilyIsRefused := by
  intro p
  refine ⟨?_, State.instantiate_of_illFormedFamily, State.instantiate_of_illFormedCapacity, fun hf hcap => ?_⟩
  · simp only [Family.wf_iff, forall_eq_or_imp, forall_eq]
  · exact ⟨_, State.instantiate_of_wf (p.wf_iff.mpr ⟨hf, hcap⟩), rfl, rfl, rfl, rfl⟩

end Sys2Proof.Machine
end

section
/-! SUPPORT. The class of a received byte decides what it does, the inversion `EventEffect` is exact, and no event reads or
writes the schedule. -/

namespace Sys2Proof.Machine

/-! A received byte by its class (R77). -/

/-- CFG is well formed by the type of `inst` (R22). -/
theorem State.cfg_wf (s : State) : s.cfg.wf = true := ((Params.wf_iff _).mp s.inst.ok).1

theorem State.receiveByte_header (s : State) : s.receiveByte s.cfg.hdr = s.resync := by
  simp [State.receiveByte, classOf]

theorem State.receiveByte_footer (s : State) : s.receiveByte s.cfg.ftr = s.complete := by
  obtain ⟨⟨hne, -⟩, -⟩ := s.cfg.wf_iff.mp s.cfg_wf
  simp [State.receiveByte, classOf, hne.symm]

theorem State.receiveByte_data {s : State} {b : Byte} (hH : b ≠ s.cfg.hdr) (hF : b ≠ s.cfg.ftr) :
    s.receiveByte b = s.receiveData b := by
  simp [State.receiveByte, classOf, hH, hF]

theorem State.receiveData_stores {s : State} (b : Byte) (h : hasRoom s.bufCap s.decBuf.length = true) :
    s.receiveData b = s.storeByte b := if_pos h

/-- There is room for a byte wherever one byte more is admitted. -/
theorem hasRoom_of_admits {cap : Cap} {m n : Nat} (h : admits cap n = true) (hmn : m < n) : hasRoom cap m = true := by
  cases cap with
  | bytes c =>
    have hn : n ≤ c := by simpa [admits] using h
    simpa [hasRoom] using hmn.trans_le hn
  | unlimited => rfl

/-- A completion on the body of a payload answers that payload (R126). -/
theorem State.complete_escapedBody {s : State} {p : List Byte} (hbuf : s.decBuf = escapedBody s.cfg p)
    (hovf : s.decOvf = false) : s.complete = s.endReceive (.ok, .frame p s.decHdr) := by
  rw [State.complete, hbuf, hovf, completionResult_body, unescape_escapedBody s.cfg_wf, frameResult_ok]

/-! The events, from what they do to the state they answer with. -/

/-- A command word that decodes runs its command. -/
theorem performEvent_command {cmd : Byte} {ops : OperandRecord} {i : Instr} (s : State) (h : decode cmd ops = .ok i) :
    performEvent (.command cmd ops) s = exec i s := by
  simp [performEvent, commandEvent, h]

/-- An rx step that finds a byte waiting processes that byte. -/
theorem performEvent_rxStep {s : State} {b : Byte} {rest : List Byte} (hd : s.decState = .recv) (hr : s.rx = b :: rest) :
    performEvent .rxStep s = .next (({ s with rx := rest } : State).receiveByte b) :=
  rxStepEvent_next.mpr ⟨hd, b, rest, hr, rfl⟩

/-- The converse of `performEvent_effect`. -/
theorem EventEffect.performs {e : Event} {s t : State} (h : EventEffect s e t) : performEvent e s = .next t := by
  cases h with
  | fenc ops =>
    rw [← State.txPushAll_eq]
    exact exec_fenc ops.p s
  | fdecStarts ops hd => exact exec_fdec_idle hd
  | fdecBusy ops hd => exact exec_fdec_recv hd
  | reserved cmd ops hfenc hfdec hfabt hkenc hkdec =>
    simp [performEvent, commandEvent, decode_reserved ops hfenc hfdec hfabt hkenc hkdec]
  | rxStep b rest hd hr => exact performEvent_rxStep hd hr
  | expire hd => exact expiryEvent_next.mpr ⟨hd, rfl⟩
  | fabt | kenc | kdec | rxArrive | reset => rfl

/-! The schedule is in no event's way. -/

/-- The state with another schedule. -/
def State.withSchedule (l : List Event) (s : State) : State := { s with schedule := l }

section

variable (l : List Event) (s : State)

theorem State.closeReceive_withSchedule : (s.withSchedule l).closeReceive = s.closeReceive.withSchedule l := by
  rcases s.closeReceive_cases with ⟨hd, h⟩ | ⟨hd, h⟩ <;> rw [h]
  · exact State.closeReceive_recv hd
  · exact State.closeReceive_idle hd

theorem State.receiveData_withSchedule (b : Byte) :
    (s.withSchedule l).receiveData b = (s.receiveData b).withSchedule l :=
  (apply_ite (State.withSchedule l) (hasRoom s.bufCap s.decBuf.length = true) (s.storeByte b) s.markOverflow).symm

theorem State.receiveByte_withSchedule (b : Byte) :
    (s.withSchedule l).receiveByte b = (s.receiveByte b).withSchedule l := by
  by_cases hH : b = s.cfg.hdr
  · rw [hH, State.receiveByte_header]
    exact (s.withSchedule l).receiveByte_header
  by_cases hF : b = s.cfg.ftr
  · rw [hF, State.receiveByte_footer]
    exact (s.withSchedule l).receiveByte_footer
  rw [State.receiveByte_data hH hF, ← State.receiveData_withSchedule]
  exact State.receiveByte_data hH hF

end

/-- An event has the same effect whatever is scheduled after it. -/
theorem EventEffect.withSchedule {e : Event} {s t : State} (l : List Event) (h : EventEffect s e t) :
    EventEffect (s.withSchedule l) e (t.withSchedule l) := by
  cases h with
  | fenc ops => exact .fenc ops
  | fdecStarts ops hd => exact .fdecStarts ops hd
  | fdecBusy ops hd => exact .fdecBusy ops hd
  | fabt ops =>
    have h := EventEffect.fabt (s := s.withSchedule l) ops
    rwa [State.closeReceive_withSchedule] at h
  | kenc ops => exact .kenc ops
  | kdec ops => exact .kdec ops
  | reserved cmd ops hfenc hfdec hfabt hkenc hkdec => exact .reserved cmd ops hfenc hfdec hfabt hkenc hkdec
  | rxArrive bs => exact .rxArrive bs
  | rxStep b rest hd hr =>
    rw [← State.receiveByte_withSchedule]
    exact .rxStep b rest hd hr
  | expire hd => exact .expire hd
  | reset =>
    have h := EventEffect.reset (s := s.withSchedule l)
    rwa [State.resetEvent, State.closeReceive_withSchedule] at h

/-- A step takes the next event of the schedule to where the event goes, and leaves the rest scheduled. -/
theorem step_of_performEvent {e : Event} {s t : State} (later : List Event) (h : performEvent e s = .next t) :
    step (s.withSchedule (e :: later)) = .next (t.withSchedule later) :=
  ((performEvent_effect h).withSchedule later).performs

/-! The steps of a receive, for any bytes that wait on rx and any events scheduled after them. -/

/-- The state with other bytes waiting on rx and another schedule. -/
def State.withInput (rx : List Byte) (schedule : List Event) (s : State) : State :=
  { s with rx := rx, schedule := schedule }

section

variable {s : State} (rest : List Byte) (later : List Event)

/-- An FDEC scheduled while IDLE starts a receive (R120). -/
theorem step_fdec (ops : OperandRecord) (hd : s.decState = .idle) :
    step (s.withInput rest (.command 0x02 ops :: later)) = .next (s.startReceive.withInput rest later) :=
  exec_fdec_idle (s := s.withInput rest later) hd

/-- An rx step scheduled while RECV processes the head of rx. -/
theorem step_rxStep (b : Byte) (hd : s.decState = .recv) :
    step (s.withInput (b :: rest) (.rxStep :: later)) = .next ((s.withInput rest later).receiveByte b) :=
  performEvent_rxStep (s := s.withInput (b :: rest) later) hd rfl

theorem step_header (hd : s.decState = .recv) :
    step (s.withInput (s.cfg.hdr :: rest) (.rxStep :: later)) = .next (s.resync.withInput rest later) :=
  (step_rxStep rest later _ hd).trans (congrArg _ (s.withInput rest later).receiveByte_header)

theorem step_footer (hd : s.decState = .recv) :
    step (s.withInput (s.cfg.ftr :: rest) (.rxStep :: later)) = .next (s.complete.withInput rest later) :=
  (step_rxStep rest later _ hd).trans (congrArg _ (s.withInput rest later).receiveByte_footer)

/-- A DATA byte is stored where there is room (R124). -/
theorem step_data {b : Byte} (hd : s.decState = .recv) (hH : b ≠ s.cfg.hdr) (hF : b ≠ s.cfg.ftr)
    (hroom : hasRoom s.bufCap s.decBuf.length = true) :
    step (s.withInput (b :: rest) (.rxStep :: later)) = .next ((s.storeByte b).withInput rest later) :=
  (step_rxStep rest later b hd).trans <| congrArg _ <|
    (State.receiveByte_data (s := s.withInput rest later) hH hF).trans (State.receiveData_stores b hroom)

/-- A run of rx steps stores the DATA bytes that wait, where the buffer holds them all. -/
theorem runSteps_data {body : List Byte} (hd : s.decState = .recv) (hH : s.cfg.hdr ∉ body) (hF : s.cfg.ftr ∉ body)
    (hcap : admits s.bufCap (s.decBuf.length + body.length) = true) :
    runSteps body.length (s.withInput (body ++ rest) (List.replicate body.length .rxStep ++ later)) =
      .next (({ s with decBuf := s.decBuf ++ body } : State).withInput rest later) := by
  induction body generalizing s with
  | nil => simp [State.withInput]
  | cons b body ih =>
    obtain ⟨hbH, hH⟩ := not_or.mp (mt List.mem_cons.mpr hH)
    obtain ⟨hbF, hF⟩ := not_or.mp (mt List.mem_cons.mpr hF)
    have hroom := hasRoom_of_admits hcap (Nat.lt_add_of_pos_right (Nat.succ_pos _))
    have hcap' : admits s.bufCap ((s.storeByte b).decBuf.length + body.length) = true := by
      simpa [Nat.add_assoc, Nat.add_comm 1] using hcap
    rw [List.length_cons, List.replicate_succ, List.cons_append, List.cons_append,
      runSteps_succ (step_data _ _ hd (Ne.symm hbH) (Ne.symm hbF) hroom), ih (s := s.storeByte b) hd hH hF hcap']
    simp [State.storeByte]

/-- A HEADER, a body and a FOOTER end the receive with the payload of the body, whatever the decoder held before (R132). -/
theorem runSteps_wireFrame {p : List Byte} (hd : s.decState = .recv)
    (hcap : admits s.bufCap (escapedBody s.cfg p).length = true) :
    runSteps (wireFrame s.cfg p).length
        (s.withInput (wireFrame s.cfg p ++ rest) (List.replicate (wireFrame s.cfg p).length .rxStep ++ later)) =
      .next ((s.endReceive (.ok, .frame p true)).withInput rest later) := by
  obtain ⟨hH, hF⟩ := delimiters_notMem_escapedBody s.cfg_wf p
  have hlen : (wireFrame s.cfg p).length = (escapedBody s.cfg p).length + 1 + 1 := by simp [wireFrame]
  have hwire : wireFrame s.cfg p ++ rest = s.cfg.hdr :: (escapedBody s.cfg p ++ s.cfg.ftr :: rest) := by
    simp [wireFrame]
  have hbody := runSteps_data (s := s.resync) (s.cfg.ftr :: rest) (.rxStep :: later) hd hH hF (by simpa using hcap)
  have hfooter := step_footer (s := { s.resync with decBuf := escapedBody s.cfg p }) rest later hd
  rw [State.complete_escapedBody (p := p) rfl rfl] at hfooter
  rw [hlen, hwire, List.replicate_succ, List.replicate_succ', List.cons_append, List.append_assoc,
    runSteps_succ (step_header _ _ hd)]
  exact (runSteps_add hbody).trans (runSteps_succ hfooter)

end

end Sys2Proof.Machine
end

section
/-! The statements of 20_memory.md. -/

namespace Sys2Proof.Machine

/-- An FDEC, and an rx step for each byte of the wire frame of `p`. -/
def receiveEvents (f : Family) (p : List Byte) : List Event :=
  .command 0x02 OperandRecord.zero :: List.replicate (wireFrame f p).length .rxStep

section

variable {s : State} (rest : List Byte) (later : List Event)

/-- One FDEC takes one frame off rx. -/
theorem runSteps_receiveEvents {p : List Byte} (hd : s.decState = .idle)
    (hcap : admits s.bufCap (escapedBody s.cfg p).length = true) :
    runSteps (receiveEvents s.cfg p).length
        (s.withInput (wireFrame s.cfg p ++ rest) (receiveEvents s.cfg p ++ later)) =
      .next ((s.endReceive (.ok, .frame p true)).withInput rest later) := by
  rw [receiveEvents, List.length_cons, List.length_replicate, List.cons_append, runSteps_succ (step_fdec _ _ _ hd)]
  exact runSteps_wireFrame (s := s.startReceive) rest later rfl hcap

/-- Each FDEC of a sequence takes the next frame off rx. -/
theorem runSteps_flatMap_receiveEvents {ps : List (List Byte)} (hd : s.decState = .idle)
    (hcap : ∀ p ∈ ps, admits s.bufCap (escapedBody s.cfg p).length = true) :
    ∃ t : State,
      runSteps (ps.flatMap (receiveEvents s.cfg)).length
          (s.withInput (ps.flatMap (wireFrame s.cfg) ++ rest) (ps.flatMap (receiveEvents s.cfg) ++ later)) =
        .next (t.withInput rest later) ∧
      t.decState = .idle ∧ t.tx = s.tx ∧ t.responses = s.responses ++ ps.map fun p => ⟨.fdec, .ok, .frame p true⟩ := by
  induction ps generalizing s with
  | nil => exact ⟨s, rfl, hd, rfl, by simp⟩
  | cons p ps ih =>
    obtain ⟨hp, hps⟩ := List.forall_mem_cons.mp hcap
    obtain ⟨t, hrun, hidle, htx, hresp⟩ := ih (s := s.endReceive (.ok, .frame p true)) rfl hps
    refine ⟨t, ?_, hidle, htx, by simpa using hresp⟩
    simp only [List.flatMap_cons, List.append_assoc, List.length_append]
    exact (runSteps_add (runSteps_receiveEvents _ _ hd hp)).trans hrun

end

/-- Settles O48: the state itself is one that has the frames on rx and their receives scheduled. -/
theorem framesAreReceivedInOrder : Obligations.FramesAreReceivedInOrder := by
  intro s ps rest later hd hcap hrx hs
  obtain ⟨t, hrun, hidle, htx, hresp⟩ := runSteps_flatMap_receiveEvents rest later hd hcap
  change s.schedule = ps.flatMap (receiveEvents s.cfg) ++ later at hs
  rw [← hrx, ← hs] at hrun
  exact ⟨_, _, hrun, rfl, hidle, rfl, htx, hresp⟩

/-- Settles O57, by induction on the length of the beginning: its last event is the head of what is left to run. -/
theorem executionsBeginAsRunsOfTheStep : Obligations.ExecutionsBeginAsRunsOfTheStep := by
  intro x hx n
  induction n with
  | zero => exact fun later => rfl
  | succ n ih =>
    intro later
    rw [List.range_succ, List.map_append, List.append_assoc, runSteps_add (ih _)]
    exact runSteps_succ (step_of_performEvent later (hx n))

/-- Settles O8: the scheduled event, and for a word that decodes its command. -/
theorem stepRunsTheDecodedCommand : Obligations.StepRunsTheDecodedCommand :=
  ⟨fun _ _ _ => step_scheduled, fun _ _ _ _ _ hs hi => (step_scheduled hs).trans (performEvent_command _ hi)⟩

/-- Settles O44: the first FABT leaves IDLE, where the second has no receive to close. -/
theorem secondAbortDoesNothing : Obligations.SecondAbortDoesNothing := by
  intro s t h
  rw [exec_fabt] at h
  cases h
  rw [exec_fabt, State.closeReceive_idle (by simp)]

end Sys2Proof.Machine
end

section
/-! SUPPORT. The key record's fields and flag byte (30_encoding.md R82 to R84), and what KENC and KDEC make of a key item. -/

namespace Sys2Proof.Machine

/-- The two bytes of a half give it back (20_memory.md R53). -/
@[simp] theorem be16_hi8_lo8 (v : Half) : be16 (hi8 v) (lo8 v) = v := by
  apply BitVec.eq_of_toNat_eq
  simp only [be16, hi8, lo8, BitVec.toNat_add, BitVec.toNat_mul, BitVec.toNat_setWidth, BitVec.extractLsb'_toNat,
    Nat.shiftRight_eq_div_pow, BitVec.ofNat_eq_ofNat, BitVec.toNat_ofNat]
  omega

/-- The flag byte sets no reserved bit (R83). -/
theorem flagByte_reservedFlagMask (kek erase : Bool) : flagByte kek erase &&& reservedFlagMask = 0 := by
  cases kek <;> cases erase <;> rfl

@[simp] theorem flagKek_flagByte (kek erase : Bool) : flagKek (flagByte kek erase) = kek := by
  cases kek <;> cases erase <;> rfl

@[simp] theorem flagErase_flagByte (kek erase : Bool) : flagErase (flagByte kek erase) = erase := by
  cases kek <;> cases erase <;> rfl

@[simp] theorem keyRecord_length (sln kid : Half) (kek erase : Bool) (key : List Byte) :
    (keyRecord sln kid kek erase key).length = 5 + key.length := by
  simp only [keyRecord, List.length_append, List.length_cons, List.length_nil]

section

variable {cap : Cap} {sln kid : Half} {key : List Byte} (kek erase : Bool)

/-- KENC on a valid key item answers its record (R160). -/
theorem kencResult_ok (hsln : valid16 sln = true) (hkid : valid16 kid = true)
    (hcap : admits cap (5 + key.length) = true) :
    kencResult cap sln kid kek erase key = (.ok, .record (keyRecord sln kid kek erase key)) := by
  simp [kencResult, hsln, hkid, hcap]

/-- KDEC on the record of a valid key item answers that key item (R165). -/
theorem kdecResult_keyRecord (hsln : valid16 sln = true) (hkid : valid16 kid = true)
    (hcap : admits cap (5 + key.length) = true) :
    kdecResult cap (keyRecord sln kid kek erase key) = (.ok, .item sln kid kek erase key) := by
  have hfields : kdecResult cap (keyRecord sln kid kek erase key) =
      kdecFields (flagByte kek erase) (hi8 sln) (lo8 sln) (hi8 kid) (lo8 kid) key :=
    if_neg (by simp [hcap])
  simp [hfields, kdecFields, flagByte_reservedFlagMask, hsln, hkid]

theorem exec_kenc_ok {s : State} (hsln : valid16 sln = true) (hkid : valid16 kid = true)
    (hcap : admits s.krCap (5 + key.length) = true) :
    exec (.kenc sln kid kek erase key) s =
      .next (s.respond .kenc .ok (.record (keyRecord sln kid kek erase key))) := by
  rw [exec_kenc, kencResult_ok kek erase hsln hkid hcap]
  rfl

theorem exec_kdec_keyRecord {s : State} (hsln : valid16 sln = true) (hkid : valid16 kid = true)
    (hcap : admits s.krCap (5 + key.length) = true) :
    exec (.kdec (keyRecord sln kid kek erase key)) s = .next (s.respond .kdec .ok (.item sln kid kek erase key)) := by
  rw [exec_kdec, kdecResult_keyRecord kek erase hsln hkid hcap]
  rfl

end

end Sys2Proof.Machine
end

section
/-! SUPPORT. The pseudo-instructions of R87: how the first response decides what is issued next. -/

namespace Sys2Proof.Machine

section

variable (q : Pseudo) {s t : State}

/-- The host goes on with the response that the first command is answered with at once. -/
theorem performPseudo_answered {r : Response} (h : exec (firstCommand q) s = .next t)
    (hr : t.responses = s.responses ++ [r]) : performPseudo q s = resumePseudo q r t := by
  simp [performPseudo, h, hr]

/-- Where the first command has no response yet, nothing more is issued. -/
theorem performPseudo_unanswered (h : exec (firstCommand q) s = .next t) (hr : t.responses = s.responses) :
    performPseudo q s = .next t := by
  simp [performPseudo, h, hr]

theorem resumePseudo_some {r : Response} {i : Instr} (h : followUp q r = some i) : resumePseudo q r s = exec i s := by
  simp [resumePseudo, h]

theorem resumePseudo_none {r : Response} (h : followUp q r = none) : resumePseudo q r s = .next s := by
  simp [resumePseudo, h]

end

/-- KRECV issues no second command on a status other than OK. -/
theorem followUp_krecv_error {r : Response} (h : r.status ≠ .ok) : followUp .krecv r = none := by
  obtain ⟨source, status, fields⟩ := r
  cases status with
  | ok => exact absurd rfl h
  | _ => cases source <;> rfl

/-- FXCH transmits the wire frame, and goes on with the FDEC. -/
theorem performPseudo_fxch (p : List Byte) (s : State) :
    performPseudo (.fxch p) s =
      exec .fdec (({ s with tx := s.tx ++ wireFrame s.cfg p } : State).respond .fenc .ok .none) := by
  have hfenc := exec_fenc p s
  rw [State.txPushAll_eq] at hfenc
  exact performPseudo_answered (.fxch p) hfenc rfl

/-- KSEND of a valid key item transmits the wire frame of its record. -/
theorem performPseudo_ksend_ok {s : State} {sln kid : Half} (kek erase : Bool) {key : List Byte}
    (hsln : valid16 sln = true) (hkid : valid16 kid = true) (hcap : admits s.krCap (5 + key.length) = true) :
    performPseudo (.ksend sln kid kek erase key) s =
      exec (.fenc (keyRecord sln kid kek erase key))
        (s.respond .kenc .ok (.record (keyRecord sln kid kek erase key))) :=
  performPseudo_answered (.ksend sln kid kek erase key) (exec_kenc_ok kek erase hsln hkid hcap) rfl

end Sys2Proof.Machine
end

section
/-! A key item crosses the link (P1 of 95_test_vectors.md). -/

namespace Sys2Proof.Machine

/-- A command word that decodes, scheduled next, runs its command. -/
theorem step_command {s : State} {cmd : Byte} {ops : OperandRecord} {i : Instr} (rest : List Byte)
    (later : List Event) (h : decode cmd ops = .ok i) :
    step (s.withInput rest (.command cmd ops :: later)) = exec i (s.withInput rest later) :=
  (step_scheduled rfl).trans (performEvent_command _ h)

/-- Settles O50: KSEND transmits the record's frame, one FDEC takes it off rx, and KDEC inverts the record. -/
theorem keyRecordCrossesTheLink : Obligations.KeyRecordCrossesTheLink := by
  intro s u sln kid kek erase key rest later hsln hkid hcap hinst hidle hbuf hrx hschedule
  refine ⟨⟨_, performPseudo_ksend_ok kek erase hsln hkid hcap, by simp [State.txPushAll_eq]⟩, ?_⟩
  have hkrCap : u.krCap = s.krCap := congrArg (fun i => i.params.krCap) hinst
  have hkdec := (step_command rest later
      (decode_kdec { OperandRecord.zero with r := keyRecord sln kid kek erase key })).trans
    (exec_kdec_keyRecord kek erase hsln hkid
      (s := (u.endReceive (.ok, .frame (keyRecord sln kid kek erase key) true)).withInput rest later) (hkrCap ▸ hcap))
  have hreceive := runSteps_receiveEvents rest
    (.command 0x12 { OperandRecord.zero with r := keyRecord sln kid kek erase key } :: later) hidle hbuf
  change u.schedule = receiveEvents u.cfg _ ++ _ at hschedule
  rw [← hrx, ← hschedule] at hreceive
  exact ⟨_, _, (runSteps_add (n := 1) hreceive).trans (runSteps_succ hkdec), rfl, rfl, by simp [State.withInput]⟩

end Sys2Proof.Machine
end

section
/-! SUPPORT. The lines of R86: what the reader makes of the tokens that the writer writes. -/

namespace Sys2Proof.Machine

/-! Words and separators. -/

/-- The characters that end a word. -/
def separators : List Char := [';', ' ', '\t', ',', '[', ']']

/-- The characters form one word: at least one, and no separator. -/
def isAsmWord (w : List Char) : Bool := !w.isEmpty && w.all fun c => !separators.contains c

theorem isAsmWord_iff {w : List Char} : isAsmWord w = true ↔ w ≠ [] ∧ ∀ c ∈ w, c ∉ separators := by
  simp [isAsmWord]

@[simp] theorem endWord_nil (ts : List AsmToken) : endWord [] ts = ts := rfl

theorem endWord_of_ne_nil {w : List Char} (h : w ≠ []) (ts : List AsmToken) : endWord w ts = .word w :: ts := by
  cases w with
  | nil => exact absurd rfl h
  | cons c w => rfl

@[simp] theorem tokensFrom_nil (cur : List Char) : tokensFrom cur [] = endWord cur [] := rfl

@[simp] theorem tokensFrom_space (cur cs : List Char) :
    tokensFrom cur (' ' :: cs) = endWord cur (tokensFrom [] cs) := by
  simp [tokensFrom]

@[simp] theorem tokensFrom_comma (cur cs : List Char) :
    tokensFrom cur (',' :: cs) = endWord cur (.comma :: tokensFrom [] cs) := by
  simp [tokensFrom]

@[simp] theorem tokensFrom_open (cur cs : List Char) :
    tokensFrom cur ('[' :: cs) = endWord cur (.openBracket :: tokensFrom [] cs) := by
  simp [tokensFrom]

@[simp] theorem tokensFrom_close (cur cs : List Char) :
    tokensFrom cur (']' :: cs) = endWord cur (.closeBracket :: tokensFrom [] cs) := by
  simp [tokensFrom]

/-- Characters that are no separators join the word that is being read. -/
theorem tokensFrom_append {w : List Char} (hw : ∀ c ∈ w, c ∉ separators) (cur cs : List Char) :
    tokensFrom cur (w ++ cs) = tokensFrom (cur ++ w) cs := by
  induction w generalizing cur with
  | nil => simp
  | cons c w ih =>
    obtain ⟨hc, hw⟩ := List.forall_mem_cons.mp hw
    simp only [separators, List.mem_cons, List.not_mem_nil, or_false, not_or] at hc
    obtain ⟨hsemi, hspace, htab, hcomma, hopen, hclose⟩ := hc
    have hread : tokensFrom cur (c :: (w ++ cs)) = tokensFrom (cur ++ [c]) (w ++ cs) := by
      simp only [tokensFrom, if_neg hsemi, if_neg hspace, if_neg htab, if_neg hcomma, if_neg hopen, if_neg hclose]
    rw [List.cons_append, hread, ih hw, List.append_assoc, List.singleton_append]

section

variable {w : List Char} (hw : isAsmWord w = true) (cs : List Char)
include hw

theorem tokensFrom_word_space : tokensFrom [] (w ++ ' ' :: cs) = .word w :: tokensFrom [] cs := by
  obtain ⟨hne, hsep⟩ := isAsmWord_iff.mp hw
  rw [tokensFrom_append hsep, List.nil_append, tokensFrom_space, endWord_of_ne_nil hne]

theorem tokensFrom_word_comma : tokensFrom [] (w ++ (writeComma ++ cs)) = .word w :: .comma :: tokensFrom [] cs := by
  obtain ⟨hne, hsep⟩ := isAsmWord_iff.mp hw
  rw [tokensFrom_append hsep, List.nil_append, writeComma, List.cons_append, List.singleton_append, tokensFrom_comma,
    endWord_of_ne_nil hne, tokensFrom_space, endWord_nil]

theorem tokensFrom_word_close : tokensFrom [] (w ++ [']']) = [.word w, .closeBracket] := by
  obtain ⟨hne, hsep⟩ := isAsmWord_iff.mp hw
  simp [tokensFrom_append hsep, endWord_of_ne_nil hne]

end

/-! Hexadecimal digits, bytes and halves. -/

theorem hexChar_notMem_separators : ∀ n < 16, hexChar n ∉ separators := by decide

theorem hexDigit_hexChar : ∀ n < 16, hexDigit (hexChar n) = some n := by decide

/-- Two digits are one word. -/
theorem isAsmWord_writeByte (b : Byte) : isAsmWord (writeByte b) = true := by
  have hhigh := hexChar_notMem_separators (b.toNat / 16) (by omega)
  have hlow := hexChar_notMem_separators (b.toNat % 16) (by omega)
  exact isAsmWord_iff.mpr ⟨by simp [writeByte], by simp [writeByte, hhigh, hlow]⟩

theorem asmByte_writeByte (b : Byte) : asmByte (writeByte b) = some b := by
  have hhigh := hexDigit_hexChar (b.toNat / 16) (by omega)
  have hlow := hexDigit_hexChar (b.toNat % 16) (by omega)
  simp only [asmByte, writeByte, hhigh, hlow, Nat.div_add_mod, BitVec.ofNat_toNat, BitVec.setWidth_eq]

theorem isAsmWord_writeHalf (v : Half) : isAsmWord (writeHalf v) = true := by
  have hdigit : ∀ n, hexChar (n % 16) ∉ separators := fun n => hexChar_notMem_separators _ (Nat.mod_lt n (by decide))
  have hlead : '0' ∉ separators ∧ 'x' ∉ separators := by decide
  exact isAsmWord_iff.mpr ⟨by simp [writeHalf], by simp [writeHalf, hdigit, hlead]⟩

theorem asmNumber_writeHalf (v : Half) : asmNumber (writeHalf v) = some v.toNat := by
  have hdigit : ∀ n, hexDigit (hexChar (n % 16)) = some (n % 16) := fun n =>
    hexDigit_hexChar _ (Nat.mod_lt n (by decide))
  simp only [asmNumber, writeHalf, digitsFrom, hdigit, Option.some.injEq]
  omega

theorem isAsmWord_writeFlag (b : Bool) : isAsmWord (writeFlag b) = true := by cases b <;> rfl

theorem asmFlag_writeFlag (b : Bool) : asmFlag (writeFlag b) = some b := by cases b <;> rfl

/-! Byte lists. -/

/-- The tokens of a byte list behind its opening bracket. -/
def byteTokens (bs : List Byte) : List AsmToken := bs.map (fun b => .word (writeByte b)) ++ [.closeBracket]

theorem tokensFrom_writeSpaced (bs : List Byte) : tokensFrom [] (writeSpaced bs ++ [']']) = byteTokens bs := by
  induction bs using writeSpaced.induct with
  | case1 => rfl
  | case2 b => exact tokensFrom_word_close (isAsmWord_writeByte b)
  | case3 b c bs ih =>
    rw [writeSpaced, List.append_assoc, List.cons_append, tokensFrom_word_space (isAsmWord_writeByte b), ih]
    rfl

theorem tokensFrom_writeBytes (bs : List Byte) : tokensFrom [] (writeBytes bs) = .openBracket :: byteTokens bs := by
  rw [writeBytes, List.cons_append, tokensFrom_open, endWord_nil, tokensFrom_writeSpaced]

theorem asmBytesTail_byteTokens (bs : List Byte) : asmBytesTail (byteTokens bs) = some bs := by
  induction bs with
  | nil => rfl
  | cons b bs ih =>
    change asmBytesTail (.word (writeByte b) :: byteTokens bs) = _
    rw [asmBytesTail, asmByte_writeByte, ih]

theorem asmBytes_byteTokens (bs : List Byte) : asmBytes (.openBracket :: byteTokens bs) = some bs :=
  asmBytesTail_byteTokens bs

end Sys2Proof.Machine
end

section
/-! R86 and R162: a command's line reads back, and its values pass the ports. -/

namespace Sys2Proof.Machine

/-- The operands of KENC as the writer writes them. -/
def writeItem (sln kid : Half) (kek erase : Bool) (key : List Byte) : List Char :=
  writeHalf sln ++ (writeComma ++ (writeHalf kid ++ (writeComma ++ (writeFlag kek ++ (writeComma ++
    (writeFlag erase ++ (writeComma ++ writeBytes key)))))))

/-- The operands of KENC read back. -/
theorem asmItem_writeItem (sln kid : Half) (kek erase : Bool) (key : List Byte) :
    asmItem (tokensFrom [] (writeItem sln kid kek erase key)) =
      some { sln := .int sln.toNat, kid := .int kid.toNat, kek := kek, erase := erase, key := key } := by
  have htokens : tokensFrom [] (writeItem sln kid kek erase key) =
      .word (writeHalf sln) :: .comma :: .word (writeHalf kid) :: .comma :: .word (writeFlag kek) :: .comma ::
        .word (writeFlag erase) :: .comma :: .openBracket :: byteTokens key := by
    simp only [writeItem, tokensFrom_word_comma, isAsmWord_writeHalf, isAsmWord_writeFlag, tokensFrom_writeBytes]
  simp only [htokens, asmItem, asmNumber_writeHalf, asmFlag_writeFlag, asmBytes_byteTokens]

/-! The lines of the commands with operands: a mnemonic, a space, and the operands. -/

theorem writeCommand_fenc (p : List Byte) : writeCommand (.fenc p) = "FENC".toList ++ ' ' :: writeBytes p := rfl

theorem writeCommand_kenc (sln kid : Half) (kek erase : Bool) (key : List Byte) :
    writeCommand (.kenc sln kid kek erase key) = "KENC".toList ++ ' ' :: writeItem sln kid kek erase key := by
  have hname : "KENC ".toList = "KENC".toList ++ [' '] := rfl
  unfold writeCommand
  rw [hname]
  simp only [writeItem, List.append_assoc, List.cons_append, List.nil_append]

theorem writeCommand_kdec (r : List Byte) : writeCommand (.kdec r) = "KDEC".toList ++ ' ' :: writeBytes r := rfl

/-- The line of a command reads back as its host form. -/
theorem parseLine_writeCommand (i : Instr) : parseLine (writeCommand i) = some (.command (hostForm i)) := by
  cases i with
  | fenc p =>
    rw [parseLine, writeCommand_fenc, tokensFrom_word_space rfl, tokensFrom_writeBytes]
    simp [parseTokens, asmBytes_byteTokens, hostForm]
  | fdec => rfl
  | fabt => rfl
  | kenc sln kid kek erase key =>
    rw [parseLine, writeCommand_kenc, tokensFrom_word_space rfl]
    simp [parseTokens, asmItem_writeItem, hostForm]
  | kdec r =>
    rw [parseLine, writeCommand_kdec, tokensFrom_word_space rfl, tokensFrom_writeBytes]
    simp [parseTokens, asmBytes_byteTokens, hostForm]

/-- Every 16-bit value passes its port unchanged (R162). -/
theorem HostValue.present_toNat (v : Half) : (HostValue.int v.toNat).present = .ok v := by
  have hrange : (0 : Int) ≤ v.toNat ∧ (v.toNat : Int) ≤ 0xFFFF := by omega
  simp [HostValue.present, hrange]

theorem hostForm_present (i : Instr) : (hostForm i).present = .ok i := by
  cases i with
  | kenc sln kid kek erase key => simp [hostForm, HostCommand.present, HostValue.present_toNat]
  | _ => rfl

/-- Settles O53: the reader inverts the writer, and the host form's values are in the ports' range. -/
theorem assemblerLineReadsBack : Obligations.AssemblerLineReadsBack := fun i =>
  ⟨parseLine_writeCommand i, hostForm_present i⟩

end Sys2Proof.Machine
end

section
/-! R74 and R133: every command gets one response, an accepted FDEC when its receive ends. -/

namespace Sys2Proof.Machine

/-- `t` adds responses to those of `s`; with what is pending they account for `commands` commands, `fdecs` FDECs among
them. -/
def Accounts (s t : State) (commands fdecs : Nat) : Prop :=
  ∃ new : List Response, t.responses = s.responses ++ new ∧
    new.length + t.pending = s.pending + commands ∧
    new.countP (fun r => r.source == .fdec) + t.pending = s.pending + fdecs

/-- The same in the terms of the whole record of responses. -/
theorem Accounts.totals {s t : State} {commands fdecs : Nat} (h : Accounts s t commands fdecs) :
    (∃ new, t.responses = s.responses ++ new) ∧
    t.responses.length + t.pending = s.responses.length + s.pending + commands ∧
    t.fdecAnswers + t.pending = s.fdecAnswers + s.pending + fdecs := by
  obtain ⟨new, hnew, hall, hfdec⟩ := h
  refine ⟨⟨new, hnew⟩, ?_, ?_⟩
  · rw [hnew, List.length_append]
    omega
  · rw [State.fdecAnswers, State.fdecAnswers, hnew, List.countP_append]
    omega

section

variable {s t : State}

theorem State.pending_congr (h : t.decState = s.decState) : t.pending = s.pending := by
  rw [State.pending, State.pending, h]

/-- What neither answers nor touches the receive accounts for no command. -/
theorem accounts_silent (hd : t.decState = s.decState) (hr : t.responses = s.responses) : Accounts s t 0 0 :=
  ⟨[], by simp [hr], by simp [State.pending_congr hd], by simp [State.pending_congr hd]⟩

/-- A response that leaves the receive as it is accounts for its own command. -/
theorem accounts_response (r : Response) (hd : t.decState = s.decState) (hr : t.responses = s.responses ++ [r]) :
    Accounts s t 1 (if r.source = .fdec then 1 else 0) := by
  refine ⟨[r], hr, ?_, ?_⟩
  · rw [State.pending_congr hd, List.length_singleton, Nat.add_comm]
  · by_cases h : r.source = .fdec <;> simp [h, State.pending_congr hd, Nat.add_comm]

/-- The end of a receive answers the FDEC that was pending. -/
theorem accounts_endReceive (hd : s.decState = .recv) (r : Status × ResultFields) :
    Accounts s (s.endReceive r) 0 0 :=
  ⟨[⟨.fdec, r.1, r.2⟩], rfl, by simp [State.pending, hd], by simp [State.pending, hd]⟩

/-- The close of a receive accounts for no command, whether or not an FDEC was pending. -/
theorem accounts_closeReceive (s : State) : Accounts s s.closeReceive 0 0 := by
  rcases s.closeReceive_cases with ⟨hd, h⟩ | ⟨-, h⟩ <;> rw [h]
  · exact accounts_endReceive hd _
  · exact accounts_silent rfl rfl

/-- A received byte accounts for no command: a FOOTER answers the FDEC that was pending. -/
theorem accounts_receiveByte (hd : s.decState = .recv) (b : Byte) : Accounts s (s.receiveByte b) 0 0 := by
  rcases s.receiveByte_cases b with ⟨-, h⟩ | ⟨-, -, h⟩ | ⟨-, -, -, h⟩ | ⟨-, -, -, h⟩ <;> rw [h]
  · exact accounts_silent rfl rfl
  · exact accounts_endReceive hd _
  · exact accounts_silent rfl rfl
  · exact accounts_silent rfl rfl

/-- One after the other. -/
theorem Accounts.trans {u : State} {m n k l : Nat} (h : Accounts s t m n) (h' : Accounts t u k l) :
    Accounts s u (m + k) (n + l) := by
  obtain ⟨new, hnew, hall, hfdec⟩ := h
  obtain ⟨new', hnew', hall', hfdec'⟩ := h'
  refine ⟨new ++ new', by rw [hnew', hnew, List.append_assoc], ?_, ?_⟩
  · rw [List.length_append]
    omega
  · rw [List.countP_append]
    omega

end

theorem fdecCount_of_ne_fdec {cmd : Byte} (ops : OperandRecord) (h : cmd ≠ 0x02) :
    (Event.command cmd ops).fdecCount = 0 := if_neg h

/-- Every event accounts for the commands it issues. -/
theorem EventEffect.accounts {e : Event} {s t : State} (h : EventEffect s e t) :
    Accounts s t e.commandCount e.fdecCount := by
  cases h with
  | fenc ops => exact accounts_response ⟨.fenc, .ok, .none⟩ rfl rfl
  | fdecStarts ops hd =>
    exact ⟨[], by simp, by simp [State.pending, hd, Event.commandCount], by simp [State.pending, hd, Event.fdecCount]⟩
  | fdecBusy ops hd => exact accounts_response ⟨.fdec, .busy, .none⟩ rfl rfl
  | fabt ops =>
    exact (accounts_closeReceive s).trans
      (accounts_response (t := s.closeReceive.respond .fabt .ok .none) ⟨.fabt, .ok, .none⟩ rfl rfl)
  | kenc ops => exact accounts_response ⟨.kenc, _, _⟩ rfl rfl
  | kdec ops => exact accounts_response ⟨.kdec, _, _⟩ rfl rfl
  | reserved cmd ops _ hfdec =>
    rw [fdecCount_of_ne_fdec ops hfdec]
    exact accounts_response ⟨.reserved cmd, .illegalCmd, .none⟩ rfl rfl
  | rxArrive bs => exact accounts_silent rfl rfl
  | rxStep b rest hd hr => exact accounts_receiveByte (s := { s with rx := rest }) hd b
  | expire hd => exact accounts_endReceive hd _
  | reset => exact (accounts_closeReceive s).trans (accounts_silent (t := s.resetEvent) (by simp) rfl)

/-- Settles O40: the scheduled event accounts for what it issues, and the block's own moves issue nothing. -/
theorem everyCommandGetsExactlyOneResponse : Obligations.EveryCommandGetsExactlyOneResponse := by
  intro s t h
  rcases step_next_cases h with ⟨e, later, hs, he⟩ | ⟨hs, -, rfl⟩ | ⟨hs, -, e, d, rfl | rfl, he⟩ <;> rw [hs]
  · exact he.accounts.totals
  · exact (accounts_silent rfl rfl).totals
  · exact he.accounts.totals
  · exact he.accounts.totals

end Sys2Proof.Machine
end

section
/-! The command map: the five words of R71, the reserved words of R72, and the encoder. -/

namespace Sys2Proof.Machine

/-! R71: the five words, and what each reads. -/

/-- The decoder in one equivalence: a word outside the five is reserved, and so no command. -/
theorem decode_eq_ok_iff {cmd : Byte} {ops : OperandRecord} {i : Instr} :
    decode cmd ops = .ok i ↔
      (cmd = 0x01 ∧ i = .fenc ops.p) ∨ (cmd = 0x02 ∧ i = .fdec) ∨ (cmd = 0x03 ∧ i = .fabt) ∨
      (cmd = 0x11 ∧ i = .kenc ops.sln ops.kid ops.kek ops.erase ops.key) ∨ (cmd = 0x12 ∧ i = .kdec ops.r) := by
  constructor
  · intro h
    by_cases hword : cmd = 0x01 ∨ cmd = 0x02 ∨ cmd = 0x03 ∨ cmd = 0x11 ∨ cmd = 0x12
    · rcases hword with rfl | rfl | rfl | rfl | rfl <;> cases h <;> simp
    · simp only [not_or] at hword
      obtain ⟨hfenc, hfdec, hfabt, hkenc, hkdec⟩ := hword
      simp [decode_reserved ops hfenc hfdec hfabt hkenc hkdec] at h
  · rintro (⟨rfl, rfl⟩ | ⟨rfl, rfl⟩ | ⟨rfl, rfl⟩ | ⟨rfl, rfl⟩ | ⟨rfl, rfl⟩) <;> rfl

/-- Settles O6: the five words by their table, all others by `decode_reserved`. -/
theorem exactlyFiveWordsSelectACommand : Obligations.ExactlyFiveWordsSelectACommand := fun _ _ _ => decode_eq_ok_iff

/-! R72: the reserved words. -/

/-- The ranges of R72, written out. -/
theorem reservedCmd_iff (cmd : Byte) :
    reservedCmd cmd = true ↔
      cmd = 0x00 ∨ (0x04 ≤ cmd ∧ cmd ≤ 0x0F) ∨ cmd = 0x10 ∨ (0x13 ≤ cmd ∧ cmd ≤ 0x1F) ∨ (0x20 ≤ cmd ∧ cmd ≤ 0xFF) := by
  have hmax : cmd ≤ 0xFF := Nat.le_of_lt_succ cmd.isLt
  rw [and_iff_left hmax]
  simp [reservedCmd, or_assoc]

/-- The words of R71 as numbers. -/
def tableWords : Finset Nat := {0x01, 0x02, 0x03, 0x11, 0x12}

theorem reservedCmd_ofNat_iff {n : Nat} (hn : n < 256) :
    reservedCmd (BitVec.ofNat 8 n) = true ↔ n ∉ tableWords := by
  rw [reservedCmd_iff]
  simp only [tableWords, Finset.mem_insert, Finset.mem_singleton, BitVec.le_def, ← BitVec.toNat_inj, BitVec.ofNat_eq_ofNat,
    BitVec.toNat_ofNat]
  omega

/-- The reserved words are the 256 words without those five. -/
theorem length_filter_reservedCmd :
    ((List.range 256).filter (fun n => reservedCmd (BitVec.ofNat 8 n))).length = 251 := by
  have hwords : ((List.range 256).filter (fun n => reservedCmd (BitVec.ofNat 8 n))).toFinset =
      Finset.range 256 \ tableWords := by
    ext n
    simp only [List.mem_toFinset, List.mem_filter, List.mem_range, Finset.mem_sdiff, Finset.mem_range]
    exact and_congr_right reservedCmd_ofNat_iff
  have hsub : tableWords ⊆ Finset.range 256 := by simp [tableWords, Finset.insert_subset_iff]
  rw [← List.toFinset_card_of_nodup (List.nodup_range.filter _), hwords, Finset.card_sdiff_of_subset hsub,
    Finset.card_range]
  rfl

/-- No word of R71 is reserved, so a reserved word is rejected. -/
theorem decode_of_reservedCmd {cmd : Byte} (ops : OperandRecord) (h : reservedCmd cmd = true) :
    decode cmd ops = .error (.reservedCmd cmd) := by
  have hne : ∀ w : Byte, reservedCmd w = false → cmd ≠ w := by
    rintro w hw rfl
    simp [hw] at h
  exact decode_reserved ops (hne _ rfl) (hne _ rfl) (hne _ rfl) (hne _ rfl) (hne _ rfl)

/-- Settles O7: the ranges, their number, and the rejection by the decoder, which the event answers. -/
theorem reservedWordAnswersIllegalCmd : Obligations.ReservedWordAnswersIllegalCmd := by
  refine ⟨reservedCmd_iff, length_filter_reservedCmd, fun s cmd ops h => ?_⟩
  rw [performEvent, commandEvent, decode_of_reservedCmd ops h]
  rfl

/-! R73: the encoder. -/

/-- Each command's word and operand record decode to that command. -/
theorem decode_encode (i : Instr) : decode (encode i).1 (encode i).2 = .ok i := by
  cases i with
  | fenc p => exact decode_fenc _
  | fdec => exact decode_fdec _
  | fabt => exact decode_fabt _
  | kenc sln kid kek erase key => exact decode_kenc _
  | kdec r => exact decode_kdec _

/-- Settles O9: the words of R71 are the encoder's. -/
theorem decodeAndEncodeAgree : Obligations.DecodeAndEncodeAgree := by
  refine ⟨decode_encode, fun cmd ops i h => ?_⟩
  rcases decode_eq_ok_iff.mp h with ⟨rfl, rfl⟩ | ⟨rfl, rfl⟩ | ⟨rfl, rfl⟩ | ⟨rfl, rfl⟩ | ⟨rfl, rfl⟩ <;> rfl

/-- A table word that decodes, placed at the port, is what runs next. -/
theorem step_withFetchWord {nbits w : Nat} {i : Instr} (s : State)
    (h : decode (tableCommand nbits w) OperandRecord.zero = .ok i) : step (s.withFetchWord nbits w) = exec i s :=
  (step_scheduled rfl).trans (performEvent_command s h)

/-- Settles O10: the five words of R71 by the decoder's table. -/
theorem tableWordsRunAfterReset : Obligations.TableWordsRunAfterReset :=
  ⟨rfl, rfl, rfl, rfl, rfl, rfl, step_withFetchWord _ (decode_fenc _), step_withFetchWord _ (decode_fdec _),
    step_withFetchWord _ (decode_fabt _), step_withFetchWord _ (decode_kenc _), step_withFetchWord _ (decode_kdec _)⟩

end Sys2Proof.Machine
end

section
/-! The tables of 30_encoding.md: receive classes (R77), placeholders (R79), status codes (R75) and the flag byte (R83). -/

namespace Sys2Proof.Machine

/-! R79: the placeholders, exclusive where they are pairwise different. -/

theorem substituted_phHdr (f : Family) : substituted f f.phHdr = some f.hdr := by simp [substituted]

theorem substituted_phFtr {f : Family} (h : f.phHdr ≠ f.phFtr) : substituted f f.phFtr = some f.ftr := by
  simp [substituted, h.symm]

theorem substituted_phEsc {f : Family} (h : f.phHdr ≠ f.phEsc) (h' : f.phFtr ≠ f.phEsc) :
    substituted f f.phEsc = some f.esc := by
  simp [substituted, h.symm, h'.symm]

theorem substituted_eq_none {f : Family} {c : Byte} (hH : c ≠ f.phHdr) (hF : c ≠ f.phFtr) (hE : c ≠ f.phEsc) :
    substituted f c = none := by
  simp [substituted, hH, hF, hE]

/-- Settles O22: the rows of the table, and the unescape pass that reads each after an ESC. -/
theorem placeholderTableHasFourRows : Obligations.PlaceholderTableHasFourRows := by
  intro f hf
  obtain ⟨-, ⟨hHF, hHE, hFE⟩, -⟩ := f.wf_iff.mp hf
  have hH := substituted_phHdr f
  have hF := substituted_phFtr hHF
  have hE := substituted_phEsc hHE hFE
  exact ⟨hH, hF, hE, fun _ => substituted_eq_none, fun out rest =>
    ⟨unescapeFrom_escape f out rest hH, unescapeFrom_escape f out rest hF, unescapeFrom_escape f out rest hE,
      fun _ h1 h2 h3 => unescapeFrom_bad f out rest (substituted_eq_none h1 h2 h3)⟩⟩

/-! R77: the receive classes. -/

/-- DATA is every byte that is no delimiter. -/
theorem classOf_data_iff (f : Family) (b : Byte) : classOf f b = .data ↔ b ≠ f.hdr ∧ b ≠ f.ftr := by
  unfold classOf
  split_ifs with hH hF
  · simp [hH]
  · simp [hF]
  · simp [hH, hF]

/-- Settles O23: the three classes, and the checks of WF_FAMILY by which ESC and the placeholders are no delimiter. -/
theorem receiveClassesAreExclusive : Obligations.ReceiveClassesAreExclusive := by
  intro f hf
  obtain ⟨⟨hHF, hHE, hFE⟩, -, hH, hF, hE⟩ := f.wf_iff.mp hf
  refine ⟨fun b => ⟨classOf_header_iff f b, ?_, classOf_data_iff f b⟩, ?_⟩
  · simp [classOf_footer_iff, hHF]
  · simp only [classOf_data_iff]
    exact ⟨⟨hHE.symm, hFE.symm⟩, hH, hF, hE⟩

/-! R75: the status codes. -/

theorem Status.mem_all (st : Status) : st ∈ Status.all := by cases st <;> decide

theorem Status.ofCode_code (st : Status) : Status.ofCode st.code = .ok st := by cases st <;> rfl

/-- Every code is below the reserved ones. -/
theorem Status.code_lt (st : Status) : st.code < 0x0D := by cases st <;> decide

/-- A reserved code is no status's (S10). -/
theorem Status.ofCode_reserved {b : Byte} (h : 0x0D ≤ b) : Status.ofCode b = .error (.reservedStatus b) := by
  have hnone : Status.all.find? (fun st => st.code == b) = none :=
    List.find?_eq_none.mpr fun st _ hst =>
      BitVec.not_lt.mpr h (eq_of_beq hst ▸ st.code_lt)
  rw [Status.ofCode, hnone]

/-- Settles O24: the codes, and the reading of a code. -/
theorem statusCodesAreRead : Obligations.StatusCodesAreRead :=
  ⟨rfl, rfl, rfl, rfl, rfl, rfl, rfl, rfl, rfl, rfl, rfl, rfl, rfl, Status.mem_all, Status.ofCode_code,
    fun _ => Status.ofCode_reserved⟩

/-! R83: the flag byte. -/

/-- The reserved bits are 6 and 4 to 0, in and beyond the byte. -/
theorem reservedFlagMask_getLsbD (n : Nat) : reservedFlagMask.getLsbD n = true ↔ n = 6 ∨ n ≤ 4 := by
  have inByte : ∀ n < 8, reservedFlagMask.getLsbD n = true ↔ n = 6 ∨ n ≤ 4 := by decide
  by_cases hn : n < 8
  · exact inByte n hn
  · rw [BitVec.getLsbD_of_ge reservedFlagMask n (Nat.le_of_not_lt hn)]
    simp only [Bool.false_eq_true, false_iff]
    omega

/-- Settles O25: the four values by evaluation, the mask bit by bit. -/
theorem flagByteHasFourValues : Obligations.FlagByteHasFourValues :=
  ⟨rfl, rfl, rfl, rfl, fun _ _ => rfl, rfl, reservedFlagMask_getLsbD⟩

end Sys2Proof.Machine
end

section
/-! The pseudo-instructions FXCH and KRECV (R87). -/

namespace Sys2Proof.Machine

/-- KRECV is its FDEC alone until that is answered with OK: in RECV it is answered BUSY at once. -/
theorem performPseudo_krecv (s : State) : performPseudo .krecv s = exec .fdec s := by
  cases hd : s.decState with
  | idle =>
    rw [exec_fdec_idle hd]
    exact performPseudo_unanswered .krecv (exec_fdec_idle hd) rfl
  | recv =>
    rw [exec_fdec_recv hd, performPseudo_answered .krecv (exec_fdec_recv hd) rfl]
    exact resumePseudo_none .krecv (followUp_krecv_error (by simp))

/-- Settles O52: each expansion by its FDEC, which starts a receive or is answered BUSY. -/
theorem pseudoInstructionsExpand : Obligations.PseudoInstructionsExpand := by
  refine ⟨fun s p hd => ?_, fun s p hd => ?_, fun s _ => performPseudo_krecv s, fun s hd => ?_,
    fun s payload h => resumePseudo_some .krecv rfl,
    fun s st fs h => resumePseudo_none .krecv (followUp_krecv_error h)⟩
  · exact (performPseudo_fxch p s).trans (exec_fdec_idle hd)
  · rw [performPseudo_fxch, exec_fdec_recv (by exact hd)]
    simp [State.raise, State.respond]
  · exact (performPseudo_krecv s).trans (exec_fdec_recv hd)

end Sys2Proof.Machine
end

section
/-! The frame encoder of 40_frame_encoder.md: FENC, the escape table and the laws of a wire frame (R100 to R104). -/

namespace Sys2Proof.Machine

/-! R102: the length of a wire frame. -/

/-- A token is one byte, and one more for a special byte. -/
theorem length_escapeByte (f : Family) (b : Byte) :
    (escapeByte f b).length = 1 + if isSpecial f b then 1 else 0 := by
  rcases escapeByte_cases f b with ⟨c, he, hb⟩ | ⟨he, hb⟩ <;> simp [he, hb]

theorem length_escapedBody (f : Family) (p : List Byte) :
    (escapedBody f p).length = p.length + p.countP (isSpecial f) := by
  induction p with
  | nil => rfl
  | cons b p ih =>
    rw [escapedBody_cons, List.length_append, length_escapeByte, ih, List.length_cons, List.countP_cons]
    omega

/-- Settles O28: the body's length, and the two delimiters. -/
theorem wireFrameLength : Obligations.WireFrameLength := by
  intro f p
  change (wireFrame f p).length = 2 + p.length + p.countP (isSpecial f)
  rw [wireFrame, List.length_append, List.length_append, length_escapedBody]
  simp only [List.length_singleton]
  omega

/-! R103: the delimiters of a wire frame. -/

/-- An element that stands nowhere else in a list is found at one index only. -/
theorem getElem?_append_cons_eq_some_self_iff {α : Type} {before after : List α} {a : α} (hbefore : a ∉ before)
    (hafter : a ∉ after) (n : Nat) : (before ++ a :: after)[n]? = some a ↔ n = before.length := by
  induction before generalizing n with
  | nil =>
    cases n with
    | zero => simp
    | succ n => simpa using fun h => hafter (List.mem_of_getElem? h)
  | cons b before ih =>
    rw [List.mem_cons, not_or] at hbefore
    obtain ⟨hb, hbefore⟩ := hbefore
    cases n with
    | zero => simpa using Ne.symm hb
    | succ n => simpa using ih hbefore n

/-- Settles O29: each delimiter differs from the other and does not stand in the body, so it is found at its own end of the
frame only. -/
theorem wireFrameHasOneHeaderAndOneFooter : Obligations.WireFrameHasOneHeaderAndOneFooter := by
  intro f p hf
  obtain ⟨⟨hne, -⟩, -⟩ := f.wf_iff.mp hf
  obtain ⟨hH, hF⟩ := delimiters_notMem_escapedBody hf p
  refine ⟨hH, hF, fun n => ?_, fun n => ?_⟩
  · have hafter : f.hdr ∉ escapedBody f p ++ [f.ftr] := by simp [hH, hne]
    exact getElem?_append_cons_eq_some_self_iff List.not_mem_nil hafter n
  · have hbefore : f.ftr ∉ [f.hdr] ++ escapedBody f p := by simp [hF, hne.symm]
    rw [wireFrame, getElem?_append_cons_eq_some_self_iff hbefore List.not_mem_nil]
    simp

/-! R104: a body splits into tokens in one way. -/

theorem head?_escapeByte_eq_esc_iff {f : Family} (hf : f.wf = true) (b : Byte) :
    (escapeByte f b).head? = some f.esc ↔ (escapeByte f b).length = 2 := by
  rcases escapeByte_of_wf hf b with ⟨c, he, -⟩ | ⟨he, -, -, hb⟩
  · simp [he]
  · simp [he, hb]

/-- The unescape pass tells two payloads apart by their bodies. -/
theorem escapedBody_injective {f : Family} (hf : f.wf = true) : Function.Injective (escapedBody f) := by
  intro p q h
  have hpass : (Status.ok, p) = (Status.ok, q) := by
    rw [← unescape_escapedBody hf p, h, unescape_escapedBody hf q]
  exact (Prod.mk.inj hpass).2

/-- A list of tokens is that of some payload. -/
theorem exists_map_escapeByte {f : Family} {tokens : List (List Byte)} (h : ∀ t ∈ tokens, ∃ b, t = escapeByte f b) :
    ∃ q : List Byte, q.map (escapeByte f) = tokens := by
  have hrange : tokens ∈ {l | ∀ t ∈ l, t ∈ Set.range (escapeByte f)} := fun t ht => (h t ht).imp fun _ => Eq.symm
  rwa [← Set.range_list_map] at hrange

/-- Settles O30: tokens that join to a body are those of a payload with the same body, and so of the same payload. -/
theorem bodyParsesInOneWay : Obligations.BodyParsesInOneWay := by
  intro f hf
  refine ⟨head?_escapeByte_eq_esc_iff hf, fun p tokens htokens hbody => ?_, unescape_escapedBody hf⟩
  obtain ⟨q, rfl⟩ := exists_map_escapeByte htokens
  have hsame : escapedBody f q = escapedBody f p := by rwa [← List.flatMap_def] at hbody
  rw [escapedBody_injective hf hsame]

/-! R100 and R101: FENC and the escape table. -/

/-- Settles O1: the bytes pushed one by one join the tail of tx as one wire frame. -/
theorem fencTransmitsTheWireFrame : Obligations.FencTransmitsTheWireFrame := by
  refine ⟨decode_fenc, fun p s => ?_⟩
  rw [exec_fenc, State.txPushAll_eq]
  rfl

/-- A byte that is none of the three special ones stands for itself. -/
theorem escapeByte_data {f : Family} {b : Byte} (hH : b ≠ f.hdr) (hF : b ≠ f.ftr) (hE : b ≠ f.esc) :
    escapeByte f b = [b] := by
  simp [escapeByte, hH, hF, hE]

/-- Settles O21: the four rows, and the source's worked frame by evaluation. -/
theorem escapeTableHasFourRows : Obligations.EscapeTableHasFourRows := by
  refine ⟨fun f hf => ?_, by decide⟩
  obtain ⟨⟨hHF, hHE, hFE⟩, -⟩ := f.wf_iff.mp hf
  exact ⟨escapeByte_hdr f, escapeByte_ftr hHF, escapeByte_esc hHE hFE, fun _ => escapeByte_data⟩

end Sys2Proof.Machine
end

section
/-! SUPPORT. Where an event answers, what it leaves of the rx stream, and what an event beside a receive leaves of it. -/

namespace Sys2Proof.Machine

/-! An event answers exactly where it is enabled (entry 6). -/

/-- Every command answers in every state (R200). -/
theorem exec_answers (i : Instr) (s : State) : ∃ t, exec i s = .next t := by
  cases i with
  | fenc p => exact ⟨_, exec_fenc p s⟩
  | fdec =>
    cases hd : s.decState with
    | idle => exact ⟨_, exec_fdec_idle hd⟩
    | recv => exact ⟨_, exec_fdec_recv hd⟩
  | fabt => exact ⟨_, exec_fabt s⟩
  | kenc sln kid kek erase key => exact ⟨_, exec_kenc sln kid kek erase key s⟩
  | kdec r => exact ⟨_, exec_kdec r s⟩

theorem commandEvent_answers (cmd : Byte) (ops : OperandRecord) (s : State) : ∃ t, commandEvent cmd ops s = .next t := by
  rcases commandEvent_cases cmd ops s with ⟨i, -, h⟩ | ⟨w, -, h⟩ <;> rw [h]
  · exact exec_answers i s
  · exact ⟨_, rfl⟩

/-- An rx step is enabled in RECV with a byte waiting (R131). -/
theorem rxStep_enabled (s : State) : Event.rxStep.enabled s = true ↔ s.decState = .recv ∧ s.rx ≠ [] := by
  simp [Event.enabled, State.receiving]

/-- Anywhere else it is stuck. -/
theorem rxStepEvent_stuck {s : State} (h : ¬ (s.decState = .recv ∧ s.rx ≠ [])) :
    rxStepEvent s = .fault .rxStepNotEnabled := by
  have hnone : s.rxPull = none := by
    refine Option.eq_none_iff_forall_ne_some.mpr fun ⟨b, t⟩ hpull => h ?_
    obtain ⟨hd, rest, hr, -⟩ := State.rxPull_eq_some.mp hpull
    exact ⟨hd, by simp [hr]⟩
  simp [rxStepEvent, hnone]

/-- An event that is enabled answers; one that is not is stuck, with the fault that names it. -/
theorem performEvent_outcome (e : Event) (s : State) :
    (e.enabled s = true ∧ ∃ t, performEvent e s = .next t) ∨
    (e.enabled s = false ∧
      ((e = .rxStep ∧ performEvent e s = .fault .rxStepNotEnabled) ∨
       (e = .expire ∧ performEvent e s = .fault .expiryNotEnabled))) := by
  cases e with
  | command cmd ops => exact .inl ⟨rfl, commandEvent_answers cmd ops s⟩
  | rxArrive bs => exact .inl ⟨rfl, _, rfl⟩
  | rxStep =>
    by_cases h : s.decState = .recv ∧ s.rx ≠ []
    · obtain ⟨b, rest, hr⟩ := List.exists_cons_of_ne_nil h.2
      exact .inl ⟨(rxStep_enabled s).mpr h, _, performEvent_rxStep h.1 hr⟩
    · exact .inr ⟨Bool.eq_false_of_not_eq_true (mt (rxStep_enabled s).mp h), .inl ⟨rfl, rxStepEvent_stuck h⟩⟩
  | expire =>
    cases hd : s.decState with
    | idle => exact .inr (by simp [Event.enabled, State.receiving, hd, performEvent, expiryEvent])
    | recv => exact .inl ⟨(expire_enabled s).mpr hd, _, expiryEvent_next.mpr ⟨hd, rfl⟩⟩
  | reset => exact .inl ⟨rfl, _, rfl⟩

theorem performEvent_of_enabled {e : Event} {s : State} (h : e.enabled s = true) : ∃ t, performEvent e s = .next t := by
  rcases performEvent_outcome e s with ⟨-, ht⟩ | ⟨hne, -⟩
  · exact ht
  · simp [hne] at h

/-- An event that ends no receive and is no rx step is enabled in every state. -/
theorem enabled_of_beside {e : Event} (s : State) (hend : e.endsReceive = false) (hrx : e.isRxStep = false) :
    e.enabled s = true := by
  cases e with
  | command | rxArrive | reset => rfl
  | rxStep => cases hrx
  | expire => cases hend

/-! The rx stream (R28, R55). -/

/-- An event appends what arrives; an rx step takes the head byte. -/
theorem EventEffect.rx {e : Event} {s t : State} (h : EventEffect s e t) :
    t.rx = (s.rx ++ e.arrivals).drop e.isRxStep.toNat := by
  cases h with
  | rxStep b rest hd hr => simp [Event.arrivals, Event.isRxStep, hr]
  | _ => simp [Event.arrivals, Event.isRxStep]

/-! Events beside a receive. -/

/-- The state with other rx bytes waiting, other tx bytes sent and other responses given. -/
def State.withTraffic (rx tx : List Byte) (responses : List Response) (s : State) : State :=
  { s with rx := rx, tx := tx, responses := responses }

@[simp] theorem arrivals_command (cmd : Byte) (ops : OperandRecord) : (Event.command cmd ops).arrivals = [] := rfl

/-- A command that only transmits and answers leaves rx as it is. -/
theorem withTraffic_command (cmd : Byte) (ops : OperandRecord) (s : State) (tx : List Byte) {r : Response}
    (hr : r.endsFdec = false) :
    ∃ tx' new, s.withTraffic s.rx tx (s.responses ++ [r]) =
        s.withTraffic (s.rx ++ (Event.command cmd ops).arrivals) tx' (s.responses ++ new) ∧
      ∀ r ∈ new, r.endsFdec = false :=
  ⟨tx, [r], by rw [arrivals_command, List.append_nil], by simpa using hr⟩

/-- Beside a pending receive an event appends to the streams and to the responses, and does nothing else (R121). -/
theorem EventEffect.beside {e : Event} {s t : State} (h : EventEffect s e t) (hd : s.decState = .recv)
    (hend : e.endsReceive = false) (hrx : e.isRxStep = false) :
    ∃ tx new, t = s.withTraffic (s.rx ++ e.arrivals) tx (s.responses ++ new) ∧ ∀ r ∈ new, r.endsFdec = false := by
  cases h with
  | fenc ops => exact withTraffic_command _ ops s _ (r := ⟨.fenc, .ok, .none⟩) rfl
  | fdecStarts ops hidle => simp [hd] at hidle
  | fdecBusy ops => exact withTraffic_command _ ops s _ (r := ⟨.fdec, .busy, .none⟩) rfl
  | kenc ops => exact withTraffic_command _ ops s _ (r := ⟨.kenc, _, _⟩) rfl
  | kdec ops => exact withTraffic_command _ ops s _ (r := ⟨.kdec, _, _⟩) rfl
  | reserved cmd ops => exact withTraffic_command cmd ops s _ (r := ⟨.reserved cmd, .illegalCmd, .none⟩) rfl
  | rxArrive bs => exact ⟨s.tx, [], by rw [List.append_nil]; rfl, by simp⟩
  | fabt | expire | reset => cases hend
  | rxStep => cases hrx

/-- Such an event answers, and so has that effect. -/
theorem performEvent_beside {e : Event} {s : State} (hd : s.decState = .recv) (hend : e.endsReceive = false)
    (hrx : e.isRxStep = false) :
    ∃ tx new, performEvent e s = .next (s.withTraffic (s.rx ++ e.arrivals) tx (s.responses ++ new)) ∧
      ∀ r ∈ new, r.endsFdec = false := by
  obtain ⟨t, ht⟩ := performEvent_of_enabled (enabled_of_beside s hend hrx)
  obtain ⟨tx, new, rfl, hnew⟩ := (performEvent_effect ht).beside hd hend hrx
  exact ⟨tx, new, ht, hnew⟩

/-! Runs of the step, from the events they take. -/

/-- A list of events that answers is a run of `step` on a schedule that lists them. -/
theorem runSteps_of_performEvents {events : List Event} {s t : State} (later : List Event)
    (h : performEvents events s = .next t) :
    runSteps events.length (s.withSchedule (events ++ later)) = .next (t.withSchedule later) := by
  induction events generalizing s with
  | nil =>
    cases h
    rfl
  | cons e events ih =>
    obtain ⟨u, hu, hrest⟩ := performEvents_cons_next.mp h
    exact (runSteps_succ (step_of_performEvent _ hu)).trans (ih hrest)

end Sys2Proof.Machine
end

section
/-! The single events of 41_frame_decoder.md, and its invariant (R120 to R131, R133). -/

namespace Sys2Proof.Machine

/-! FDEC and FABT (R120, R130). -/

/-- Settles O2: the start from IDLE, and BUSY in RECV. -/
theorem fdecStartsAReceiveOrAnswersBusy : Obligations.FdecStartsAReceiveOrAnswersBusy :=
  ⟨decode_fdec, fun _ => exec_fdec_idle, fun _ => exec_fdec_recv⟩

/-- Settles O3: the close of the receive comes before FABT's own answer. -/
theorem fabtEndsThePendingReceive : Obligations.FabtEndsThePendingReceive := by
  refine ⟨decode_fabt, fun s hd => ?_, fun s hd => ?_⟩
  · rw [exec_fabt, State.closeReceive_recv hd, State.respond, State.endReceive_responses, List.append_assoc]
    rfl
  · rw [exec_fabt, State.closeReceive_idle hd]
    rfl

/-! The rx step by the class of its byte (R122 to R124). -/

/-- Settles O11: the HEADER's resynchronisation. -/
theorem headerByteResynchronises : Obligations.HeaderByteResynchronises := fun s rest hd hr =>
  (performEvent_rxStep hd hr).trans (congrArg _ ({ s with rx := rest } : State).receiveByte_header)

/-- The response of a completion, its three outcomes in the order of R126. -/
theorem completionResult_response (f : Family) (buf : List Byte) (ovf hdr : Bool) :
    (⟨.fdec, (completionResult f buf ovf hdr).1, (completionResult f buf ovf hdr).2⟩ : Response) =
      if ovf = true then ⟨.fdec, .framingOverflow, .none⟩
      else if (unescape f buf).1 = .ok then ⟨.fdec, .ok, .frame (unescape f buf).2 hdr⟩
      else ⟨.fdec, (unescape f buf).1, .none⟩ := by
  cases ovf with
  | true => rfl
  | false => by_cases h : (unescape f buf).1 = .ok <;> simp [completionResult_body, frameResult, h]

/-- Settles O12: the FOOTER's completion of the receive. -/
theorem footerByteCompletesTheReceive : Obligations.FooterByteCompletesTheReceive := by
  intro s rest hd hr
  rw [performEvent_rxStep hd hr, ← completionResult_response]
  exact congrArg _ ({ s with rx := rest } : State).receiveByte_footer

/-- There is room for one byte more exactly where one byte more is admitted. -/
theorem hasRoom_eq_admits_succ (cap : Cap) (n : Nat) : hasRoom cap n = admits cap (n + 1) := by cases cap <;> rfl

theorem hasRoom_iff (cap : Cap) (n : Nat) :
    hasRoom cap n = true ↔ cap = .unlimited ∨ ∃ c, cap = .bytes c ∧ n < c := by
  cases cap <;> simp [hasRoom]

theorem State.receiveData_drops {s : State} (b : Byte) (h : hasRoom s.bufCap s.decBuf.length = false) :
    s.receiveData b = s.markOverflow := if_neg (by simp [h])

/-- Settles O13: a DATA byte by the room that is left for it. -/
theorem dataByteIsStoredOrOverflows : Obligations.DataByteIsStoredOrOverflows := by
  intro s b rest hd hr hH hF
  have hbyte : performEvent .rxStep s = .next (({ s with rx := rest } : State).receiveData b) :=
    (performEvent_rxStep hd hr).trans (congrArg _ (State.receiveByte_data hH hF))
  refine ⟨fun hroom => ?_, fun c hc hfull => ?_⟩
  · exact hbyte.trans (congrArg _ (State.receiveData_stores b ((hasRoom_iff s.bufCap _).mpr hroom)))
  · have hnone : hasRoom s.bufCap s.decBuf.length = false := by simpa [hc, hasRoom] using hfull
    exact hbyte.trans (congrArg _ (State.receiveData_drops b hnone))

/-! Expiry (R128), and what happens where nothing is scheduled (R129). -/

/-- Settles O14: expiry is enabled in every state of RECV. -/
theorem expiryEndsTheReceiveWithTimeout : Obligations.ExpiryEndsTheReceiveWithTimeout := fun _ hd =>
  expiryEvent_next.mpr ⟨hd, rfl⟩

/-- Settles O18: the branches of the block's own move, whichever way the free choice falls. -/
theorem unscheduledStepIsAnEnabledEvent : Obligations.UnscheduledStepIsAnEnabledEvent := by
  intro s hs
  rw [step_unscheduled hs]
  refine ⟨fun hd => by simp [autonomousStep, hd], fun hd hr => ?_, fun b rest hd hr => ?_⟩
  · rw [← expiryEvent_next.mpr ⟨hd, rfl⟩]
    simp [autonomousStep, hd, hr]
  · rw [autonomousStep_draw hd hr]
    split
    · exact .inl (expiryEvent_next.mpr ⟨hd, rfl⟩)
    · exact .inr (performEvent_rxStep (s := { s with draws := s.draws + 1 }) hd hr)

theorem step_unscheduled_answers {s : State} (hs : s.schedule = []) : ∃ t, step s = .next t := by
  obtain ⟨hidle, hempty, hwaiting⟩ := unscheduledStepIsAnEnabledEvent s hs
  cases hd : s.decState with
  | idle => exact ⟨_, hidle hd⟩
  | recv =>
    cases hr : s.rx with
    | nil => exact ⟨_, hempty hd hr⟩
    | cons b rest => exact (hwaiting b rest hd hr).elim (fun h => ⟨_, h⟩) fun h => ⟨_, h⟩

/-- What is enabled does not depend on the schedule. -/
theorem enabled_withSchedule (e : Event) (l : List Event) (s : State) :
    e.enabled (s.withSchedule l) = e.enabled s := by cases e <;> rfl

/-- Settles O45: an event answers or is stuck, and the block's own move answers. -/
theorem enabledEventsAlwaysComplete : Obligations.EnabledEventsAlwaysComplete := by
  refine ⟨fun s e later hs => ?_, fun s hs => ?_, fun s r h => ?_⟩
  · rw [← enabled_withSchedule e later s,
      show step s = performEvent e (s.withSchedule later) from step_scheduled hs]
    rcases performEvent_outcome e (s.withSchedule later) with ⟨he, t, h⟩ | ⟨he, ⟨-, h⟩ | ⟨-, h⟩⟩ <;> rw [h, he] <;> rfl
  · obtain ⟨t, h⟩ := step_unscheduled_answers hs
    rw [h]
    rfl
  · cases hs : s.schedule with
    | nil =>
      obtain ⟨t, ht⟩ := step_unscheduled_answers hs
      simp [ht] at h
    | cons e later =>
      rw [step_scheduled hs] at h
      rcases performEvent_outcome e { s with schedule := later } with ⟨-, t, he⟩ | ⟨-, ⟨-, he⟩ | ⟨-, he⟩⟩ <;>
        simp [he] at h

/-! Who reads rx (R121, R131). -/

/-- Settles O16: an rx step is not enabled in IDLE, and every other event appends what arrives. -/
theorem noRxAccessWhileIdle : Obligations.NoRxAccessWhileIdle := by
  refine ⟨fun s later hd hs => ?_, fun s t hd h => ?_⟩
  · exact (step_scheduled hs).trans (rxStepEvent_stuck (by simp [hd]))
  · rcases step_next_cases h with ⟨e, later, hs, he⟩ | ⟨hs, -, rfl⟩ | ⟨-, hrecv, -⟩
    · have hnot : e.isRxStep = false := by
        cases he with
        | rxStep b rest hrecv => simp [hd] at hrecv
        | _ => rfl
      simpa [hs, hnot] using he.rx
    · simp [hs]
    · simp [hd] at hrecv

/-- Settles O39: a command other than FABT is beside the receive. -/
theorem pendingReceiveSurvivesOtherCommands : Obligations.PendingReceiveSurvivesOtherCommands := by
  intro s cmd ops rest hd hs hcmd
  obtain ⟨tx, new, h, -⟩ := performEvent_beside (e := .command cmd ops) (s := s.withSchedule rest) hd
    (beq_eq_false_iff_ne.mpr hcmd) rfl
  exact ⟨_, (step_scheduled hs).trans h, rfl, hd, rfl, rfl, rfl, List.append_nil _⟩

/-! The unescape pass (R125). -/

/-- The pass writes at most one byte for each that it reads. -/
theorem length_unescapeFrom_le (f : Family) (out s : List Byte) :
    (unescapeFrom f out s).2.length ≤ out.length + s.length := by
  fun_induction unescapeFrom f out s with
  | case1 out => simp
  | case2 out => simp
  | case3 out c rest d hsub ih =>
    simp only [List.length_append, List.length_cons, List.length_nil] at ih ⊢
    omega
  | case4 out c rest hsub => simp
  | case5 out b rest hne ih =>
    simp only [List.length_append, List.length_cons, List.length_nil] at ih ⊢
    omega

/-- Settles O31: the pass writes the sound beginning, and stops at the fault that follows it. -/
theorem leftmostEscapeFaultDecides : Obligations.LeftmostEscapeFaultDecides := by
  intro f hf
  refine ⟨fun p rest c hH hF hE => ?_, fun p => ?_, fun s => ?_⟩
  · rw [unescape, unescapeFrom_escapedBody hf, unescapeFrom_bad f _ _ (substituted_eq_none hH hF hE)]
  · rw [unescape, unescapeFrom_escapedBody hf, unescapeFrom_trailing]
  · simpa [unescape] using length_unescapeFrom_le f [] s

/-! The invariant (R133). -/

/-- An idle decoder that is clear meets the invariant. -/
theorem inv_of_clear {s : State} (hd : s.decState = .idle) (hbuf : s.decBuf = []) (hovf : s.decOvf = false)
    (hhdr : s.decHdr = false) : s.Inv :=
  ⟨fun _ => ⟨hbuf, hovf, hhdr⟩, fun h => by simp [hd] at h⟩

/-- A receive whose buffer is within BUF_CAP, and full if a byte was dropped, meets the invariant. -/
theorem inv_of_recv {s : State} (hd : s.decState = .recv) (hcap : admits s.bufCap s.decBuf.length = true)
    (hovf : s.decOvf = true → s.bufCap = .bytes s.decBuf.length) : s.Inv :=
  ⟨fun h => by simp [hd] at h, fun _ => ⟨hcap, hovf⟩⟩

theorem admits_zero (cap : Cap) : admits cap 0 = true := by cases cap <;> simp [admits]

theorem hasRoom_bytes_self (n : Nat) : hasRoom (.bytes n) n = false := by simp [hasRoom]

/-- A capacity that admits `n` bytes and not one more is `n`. -/
theorem eq_bytes_of_full {cap : Cap} {n : Nat} (h : admits cap n = true) (hfull : hasRoom cap n = false) :
    cap = .bytes n := by
  cases cap with
  | bytes c =>
    simp only [admits, hasRoom, decide_eq_true_eq, decide_eq_false_iff_not] at h hfull
    rw [Nat.le_antisymm h (Nat.le_of_not_lt hfull)]
  | unlimited => cases hfull

theorem inv_closeReceive {s : State} (h : s.Inv) : s.closeReceive.Inv := by
  rcases s.closeReceive_cases with ⟨-, hc⟩ | ⟨-, hc⟩ <;> rw [hc]
  · exact inv_of_clear rfl rfl rfl rfl
  · exact h

/-- A received byte keeps the invariant: it empties the buffer, is stored in a buffer with room, which has not overflowed, or
overflows one that is full. -/
theorem inv_receiveByte {s : State} (hd : s.decState = .recv) (h : s.Inv) (b : Byte) : (s.receiveByte b).Inv := by
  obtain ⟨hcap, hovf⟩ := h.2 hd
  rcases s.receiveByte_cases b with ⟨-, hb⟩ | ⟨-, -, hb⟩ | ⟨-, -, hroom, hb⟩ | ⟨-, -, hfull, hb⟩ <;> rw [hb]
  · exact inv_of_recv hd (admits_zero _) (by simp)
  · exact inv_of_clear rfl rfl rfl rfl
  · have hnot : s.decOvf ≠ true := fun hset => by
      rw [hovf hset, hasRoom_bytes_self] at hroom
      cases hroom
    exact inv_of_recv hd (by simpa [← hasRoom_eq_admits_succ] using hroom) fun hset => absurd hset hnot
  · exact inv_of_recv hd hcap fun _ => eq_bytes_of_full hcap hfull

/-- Every event keeps the invariant. -/
theorem EventEffect.inv {e : Event} {s t : State} (he : EventEffect s e t) (h : s.Inv) : t.Inv := by
  cases he with
  | fdecStarts ops => exact inv_of_recv rfl (admits_zero _) (by simp)
  | fabt ops => exact inv_closeReceive h
  | rxStep b rest hd => exact inv_receiveByte (s := { s with rx := rest }) hd h b
  | expire | reset => exact inv_of_clear rfl rfl rfl rfl
  | fenc | fdecBusy | kenc | kdec | reserved | rxArrive => exact h

/-- Settles O34: the invariant does not read the schedule or the draws, and every event keeps it. -/
theorem everyStepKeepsTheDecoderInvariant : Obligations.EveryStepKeepsTheDecoderInvariant := by
  intro s t h hstep
  rcases step_next_cases hstep with ⟨_, _, -, he⟩ | ⟨-, -, rfl⟩ | ⟨-, -, _, _, -, he⟩
  · exact he.inv h
  · exact h
  · exact he.inv h

/-- Settles O35: the decoder is clear at power-on. -/
theorem resetMeetsTheDecoderInvariant : Obligations.ResetMeetsTheDecoderInvariant := inv_of_clear rfl rfl rfl rfl

end Sys2Proof.Machine
end

section
/-! One receive from its first byte to its FOOTER (R132, R135): what the decoder has made of the bytes that it pulled, and why
the events in between do not disturb it. -/

namespace Sys2Proof.Machine

/-! The closed form of R135, byte by byte. -/

theorem afterLastHeader_append_hdr (f : Family) (seg : List Byte) :
    afterLastHeader f (seg ++ [f.hdr]) = seg.length + 1 := by
  induction seg with
  | nil => simp [afterLastHeader]
  | cons b seg ih => simp [afterLastHeader, ih]

theorem afterLastHeader_append_ne {f : Family} {b : Byte} (h : b ≠ f.hdr) (seg : List Byte) :
    afterLastHeader f (seg ++ [b]) = afterLastHeader f seg := by
  induction seg with
  | nil => simp [afterLastHeader, h]
  | cons c seg ih => simp [afterLastHeader, ih, h.symm]

theorem afterLastHeader_le_length (f : Family) (seg : List Byte) : afterLastHeader f seg ≤ seg.length := by
  induction seg with
  | nil => exact Nat.le_refl 0
  | cons b seg ih =>
    rw [afterLastHeader, List.length_cons]
    split_ifs <;> omega

/-- R135's body: what `seg` holds after its last HEADER. -/
def segmentBody (f : Family) (seg : List Byte) : List Byte := seg.drop (afterLastHeader f seg)

@[simp] theorem segmentBody_nil (f : Family) : segmentBody f [] = [] := rfl

theorem segmentBody_append_hdr (f : Family) (seg : List Byte) : segmentBody f (seg ++ [f.hdr]) = [] := by
  rw [segmentBody, afterLastHeader_append_hdr]
  simp

theorem segmentBody_append_ne {f : Family} {b : Byte} (h : b ≠ f.hdr) (seg : List Byte) :
    segmentBody f (seg ++ [b]) = segmentBody f seg ++ [b] := by
  rw [segmentBody, afterLastHeader_append_ne h, List.drop_append_of_le_length (afterLastHeader_le_length f seg)]
  rfl

/-- The closed form over the body; within the capacity the whole body is unescaped, beyond it an overflow is answered. -/
theorem closedReceive_eq (f : Family) (cap : Cap) (seg : List Byte) :
    closedReceive f cap seg =
      completionResult f (segmentBody f seg) (!admits cap (segmentBody f seg).length) (seg.contains f.hdr) := by
  change (if admits cap (segmentBody f seg).length = true then
      frameResult (unescape f (segmentBody f seg)) (seg.contains f.hdr) else (.framingOverflow, .none)) = _
  cases admits cap (segmentBody f seg).length <;> rfl

/-! The decoder after some bytes of a frame. -/

/-- The decoder is as a receive leaves it that has pulled the bytes `seg`: it holds their body, or a full buffer and the mark
that bytes were dropped. -/
def State.Holds (s : State) (seg : List Byte) : Prop :=
  s.decHdr = seg.contains s.cfg.hdr ∧
  if admits s.bufCap (segmentBody s.cfg seg).length then s.decBuf = segmentBody s.cfg seg ∧ s.decOvf = false
  else s.decOvf = true ∧ hasRoom s.bufCap s.decBuf.length = false

theorem holds_startReceive (s : State) : s.startReceive.Holds [] :=
  ⟨rfl, by simp [admits_zero]⟩

/-- Whatever the decoder held before, a HEADER makes it hold that HEADER alone. -/
theorem holds_resync (s : State) (seg : List Byte) : s.resync.Holds (seg ++ [s.cfg.hdr]) :=
  ⟨by simp, by simp [segmentBody_append_hdr, admits_zero]⟩

theorem admits_of_le {cap : Cap} {m n : Nat} (h : admits cap n = true) (hmn : m ≤ n) : admits cap m = true := by
  cases cap with
  | bytes c => exact decide_eq_true (hmn.trans (of_decide_eq_true h))
  | unlimited => rfl

/-- A DATA byte joins the body, or is dropped from one that does not fit. -/
theorem holds_receiveData {s : State} {seg : List Byte} {b : Byte} (h : s.Holds seg) (hH : b ≠ s.cfg.hdr) :
    (s.receiveData b).Holds (seg ++ [b]) := by
  obtain ⟨hhdr, hbuf⟩ := h
  have hhdr' : s.decHdr = (seg ++ [b]).contains s.cfg.hdr := by simp [hhdr, hH.symm]
  have hlen : (segmentBody s.cfg (seg ++ [b])).length = (segmentBody s.cfg seg).length + 1 := by
    simp [segmentBody_append_ne hH]
  cases hroom : admits s.bufCap ((segmentBody s.cfg seg).length + 1) with
  | true =>
    rw [if_pos (admits_of_le hroom (Nat.le_succ _))] at hbuf
    obtain ⟨hbuf, hovf⟩ := hbuf
    rw [State.receiveData_stores b (by rw [hasRoom_eq_admits_succ, hbuf, hroom])]
    refine ⟨hhdr', ?_⟩
    rw [State.storeByte_cfg, State.storeByte_bufCap, hlen, if_pos hroom, State.storeByte_decBuf,
      State.storeByte_decOvf, segmentBody_append_ne hH, hbuf]
    exact ⟨rfl, hovf⟩
  | false =>
    have hfull : hasRoom s.bufCap s.decBuf.length = false := by
      split_ifs at hbuf
      · rw [hasRoom_eq_admits_succ, hbuf.1, hroom]
      · exact hbuf.2
    rw [State.receiveData_drops b hfull]
    refine ⟨hhdr', ?_⟩
    rw [State.markOverflow_cfg, State.markOverflow_bufCap, hlen, if_neg (by simp [hroom])]
    exact ⟨rfl, hfull⟩

theorem holds_receiveByte {s : State} {seg : List Byte} {b : Byte} (h : s.Holds seg) (hF : b ≠ s.cfg.ftr) :
    (s.receiveByte b).Holds (seg ++ [b]) := by
  by_cases hH : b = s.cfg.hdr
  · rw [hH, State.receiveByte_header]
    exact holds_resync s seg
  · rw [State.receiveByte_data hH hF]
    exact holds_receiveData h hH

/-- A completion answers the closed form of the bytes that the decoder holds. -/
theorem completionResult_of_holds {s : State} {seg : List Byte} (h : s.Holds seg) :
    completionResult s.cfg s.decBuf s.decOvf s.decHdr = closedReceive s.cfg s.bufCap seg := by
  obtain ⟨hhdr, hbuf⟩ := h
  rw [closedReceive_eq, ← hhdr]
  split_ifs at hbuf with hfit
  · rw [hbuf.1, hbuf.2, hfit]
    rfl
  · rw [hbuf.1, Bool.eq_false_of_not_eq_true hfit]
    rfl

/-- The state after the rx steps of some bytes alone. -/
def State.receiveAll (s : State) (bytes : List Byte) : State := bytes.foldl State.receiveByte s

@[simp] theorem State.receiveAll_nil (s : State) : s.receiveAll [] = s := rfl

@[simp] theorem State.receiveAll_cons (s : State) (b : Byte) (bytes : List Byte) :
    s.receiveAll (b :: bytes) = (s.receiveByte b).receiveAll bytes := rfl

@[simp] theorem State.receiveByte_cfg (s : State) (b : Byte) : (s.receiveByte b).cfg = s.cfg := by simp [State.cfg]

@[simp] theorem State.receiveByte_bufCap (s : State) (b : Byte) : (s.receiveByte b).bufCap = s.bufCap := by
  simp [State.bufCap]

@[simp] theorem State.receiveAll_cfg (s : State) (bytes : List Byte) : (s.receiveAll bytes).cfg = s.cfg := by
  induction bytes generalizing s with
  | nil => rfl
  | cons b bytes ih => simp [ih]

@[simp] theorem State.receiveAll_bufCap (s : State) (bytes : List Byte) : (s.receiveAll bytes).bufCap = s.bufCap := by
  induction bytes generalizing s with
  | nil => rfl
  | cons b bytes ih => simp [ih]

theorem holds_receiveAll {s : State} {seg bytes : List Byte} (h : s.Holds seg) (hF : s.cfg.ftr ∉ bytes) :
    (s.receiveAll bytes).Holds (seg ++ bytes) := by
  induction bytes generalizing s seg with
  | nil => simpa using h
  | cons b bytes ih =>
    obtain ⟨hbF, hF⟩ := not_or.mp (mt List.mem_cons.mpr hF)
    rw [List.append_cons]
    exact ih (holds_receiveByte h (Ne.symm hbF)) (by simpa using hF)

/-! The decoder and the traffic beside it. -/

/-- A byte within a frame gives no response and leaves the receive pending. -/
theorem State.receiveByte_of_ne_footer {s : State} {b : Byte} (hF : b ≠ s.cfg.ftr) :
    (s.receiveByte b).decState = s.decState ∧ (s.receiveByte b).responses = s.responses := by
  rcases s.receiveByte_cases b with ⟨-, h⟩ | ⟨-, hb, -⟩ | ⟨-, -, -, h⟩ | ⟨-, -, -, h⟩
  · simp [h]
  · exact absurd hb hF
  · simp [h]
  · simp [h]

section

variable (rx tx : List Byte) (responses : List Response)

/-- A byte within a frame is received without regard to the streams and the responses. -/
theorem State.receiveByte_withTraffic {s : State} {b : Byte} (hF : b ≠ s.cfg.ftr) :
    (s.withTraffic rx tx responses).receiveByte b = (s.receiveByte b).withTraffic rx tx responses := by
  by_cases hH : b = s.cfg.hdr
  · rw [hH, State.receiveByte_header]
    exact (s.withTraffic rx tx responses).receiveByte_header
  · rw [State.receiveByte_data hH hF, State.receiveData, apply_ite (State.withTraffic rx tx responses)]
    exact State.receiveByte_data (s := s.withTraffic rx tx responses) hH hF

theorem State.receiveAll_withTraffic {s : State} {bytes : List Byte} (hF : s.cfg.ftr ∉ bytes) :
    (s.withTraffic rx tx responses).receiveAll bytes = (s.receiveAll bytes).withTraffic rx tx responses := by
  induction bytes generalizing s with
  | nil => rfl
  | cons b bytes ih =>
    obtain ⟨hbF, hF⟩ := not_or.mp (mt List.mem_cons.mpr hF)
    rw [State.receiveAll_cons, State.receiveByte_withTraffic _ _ _ (Ne.symm hbF), ih (by simpa using hF)]
    rfl

end

theorem isRxStep_iff (e : Event) : e.isRxStep = true ↔ e = .rxStep := by cases e <;> simp [Event.isRxStep]

/-- With `waiting` bytes on rx every rx step of the list finds one, as bytes arrive and are pulled on the way. -/
def RxStepsServed (waiting : Nat) (events : List Event) : Prop :=
  ∀ before after, events = before ++ .rxStep :: after →
    before.countP Event.isRxStep < waiting + (before.flatMap Event.arrivals).length

theorem rxStepsServed_rxStep {waiting : Nat} {events : List Event} (h : RxStepsServed waiting (.rxStep :: events)) :
    ∃ n, waiting = n + 1 ∧ RxStepsServed n events := by
  have hpos : 0 < waiting := by simpa using h [] events rfl
  refine ⟨waiting - 1, by omega, fun before after hevents => ?_⟩
  have := h (.rxStep :: before) after (by rw [hevents]; rfl)
  simp only [List.countP_cons, List.flatMap_cons, Event.isRxStep, Event.arrivals, List.nil_append, if_true] at this
  omega

theorem rxStepsServed_beside {waiting : Nat} {e : Event} {events : List Event} (he : e.isRxStep = false)
    (h : RxStepsServed waiting (e :: events)) : RxStepsServed (waiting + e.arrivals.length) events := by
  intro before after hevents
  have := h (e :: before) after (by rw [hevents]; rfl)
  simp only [List.countP_cons, List.flatMap_cons, he, List.length_append, Bool.false_eq_true, if_false] at this
  omega

/-- What the events `between` leave to a pending receive of `s`: none of them ends it, each rx step among them finds a byte
waiting, and with the rx step after them they pull `seg` and the first FOOTER, and leave `rest`. -/
structure ReceiveTrace (s : State) (between : List Event) (seg rest : List Byte) : Prop where
  pending : s.decState = .recv
  noEnd : ∀ e ∈ between, e.endsReceive = false
  noFooter : s.cfg.ftr ∉ seg
  stream : s.rx ++ between.flatMap Event.arrivals = seg ++ s.cfg.ftr :: rest
  count : between.countP Event.isRxStep = seg.length
  served : RxStepsServed s.rx.length between

section

variable {s : State} {between : List Event} {seg rest : List Byte}

/-- With no event left in between the FOOTER is the head of rx. -/
theorem ReceiveTrace.footer (h : ReceiveTrace s [] seg rest) : seg = [] ∧ s.rx = s.cfg.ftr :: rest := by
  obtain rfl : seg = [] := List.length_eq_zero_iff.mp (by simpa using h.count.symm)
  exact ⟨rfl, by simpa using h.stream⟩

/-- An rx step takes the first byte of the segment. -/
theorem ReceiveTrace.rxStep (h : ReceiveTrace s (.rxStep :: between) seg rest) :
    ∃ b seg' waiting, seg = b :: seg' ∧ s.rx = b :: waiting ∧ b ≠ s.cfg.ftr ∧
      ReceiveTrace ((s.receiveByte b).withTraffic waiting s.tx s.responses) between seg' rest := by
  obtain ⟨hd, hend, hF, hrx, hcount, hserved⟩ := h
  obtain ⟨n, hn, hserved⟩ := rxStepsServed_rxStep hserved
  rw [List.countP_cons, if_pos (by rfl)] at hcount
  obtain ⟨c, seg, rfl⟩ := List.exists_cons_of_length_eq_add_one hcount.symm
  obtain ⟨b, waiting, hwaiting⟩ := List.exists_cons_of_length_eq_add_one hn
  rw [hwaiting, List.cons_append, List.cons_append, List.cons.injEq] at hrx
  obtain ⟨rfl, hrx⟩ := hrx
  obtain ⟨hbF, hF⟩ := not_or.mp (mt List.mem_cons.mpr hF)
  have hcfg : (s.receiveByte b).cfg = s.cfg := s.receiveByte_cfg b
  have hlen : waiting.length = n := by simpa [hwaiting] using hn
  refine ⟨b, seg, waiting, rfl, hwaiting, Ne.symm hbF,
    (State.receiveByte_of_ne_footer (Ne.symm hbF)).1.trans hd, (List.forall_mem_cons.mp hend).2, hcfg.symm ▸ hF, ?_,
    Nat.succ.inj hcount, hlen ▸ hserved⟩
  exact hrx.trans (by rw [← hcfg]; rfl)

/-- Any other event leaves the segment as it is. -/
theorem ReceiveTrace.beside {e : Event} (h : ReceiveTrace s (e :: between) seg rest) (he : e.isRxStep = false)
    (tx : List Byte) (responses : List Response) :
    ReceiveTrace (s.withTraffic (s.rx ++ e.arrivals) tx responses) between seg rest where
  pending := h.pending
  noEnd := (List.forall_mem_cons.mp h.noEnd).2
  noFooter := h.noFooter
  stream := (List.append_assoc _ _ _).trans h.stream
  count := by simpa [List.countP_cons, he] using h.count
  served := List.length_append ▸ rxStepsServed_beside he h.served

/-- A receive through its FOOTER: what the other events do joins the streams and the responses, and the decoder completes as
it does on the pulled bytes alone. -/
theorem ReceiveTrace.completes (h : ReceiveTrace s between seg rest) :
    ∃ tx others, performEvents (between ++ [.rxStep]) s =
        .next ((s.receiveAll seg).withTraffic rest tx (s.responses ++ others)).complete ∧
      ∀ r ∈ others, r.endsFdec = false := by
  induction between generalizing s seg with
  | nil =>
    obtain ⟨rfl, hrx⟩ := h.footer
    refine ⟨s.tx, [], (performEvents_cons [] (performEvent_rxStep h.pending hrx)).trans ?_, by simp⟩
    rw [List.append_nil]
    exact congrArg _ ({ s with rx := rest } : State).receiveByte_footer
  | cons e between ih =>
    cases he : e.isRxStep with
    | true =>
      obtain rfl := (isRxStep_iff e).mp he
      obtain ⟨b, seg, waiting, rfl, hrx, hbF, htrace⟩ := h.rxStep
      obtain ⟨tx, others, hrun, hothers⟩ := ih htrace
      have hpull : performEvent .rxStep s = .next ((s.receiveByte b).withTraffic waiting s.tx s.responses) :=
        (performEvent_rxStep h.pending hrx).trans (congrArg _ (State.receiveByte_withTraffic _ _ _ hbF))
      refine ⟨tx, others, (performEvents_cons _ hpull).trans (hrun.trans ?_), hothers⟩
      have hF : (s.receiveByte b).cfg.ftr ∉ seg := htrace.noFooter
      rw [State.receiveAll_withTraffic _ _ _ hF]
      rfl
    | false =>
      obtain ⟨tx', new, hbeside, hnew⟩ := performEvent_beside h.pending (List.forall_mem_cons.mp h.noEnd).1 he
      obtain ⟨tx, others, hrun, hothers⟩ := ih (h.beside he tx' (s.responses ++ new))
      refine ⟨tx, new ++ others, (performEvents_cons _ hbeside).trans (hrun.trans ?_),
        List.forall_mem_append.mpr ⟨hnew, hothers⟩⟩
      rw [State.receiveAll_withTraffic _ _ _ h.noFooter, ← List.append_assoc]
      rfl

/-- The same as a run of `step`, with the response of the closed form. -/
theorem ReceiveTrace.runSteps_closedForm (h : ReceiveTrace s between seg rest) (hheld : (s.receiveAll seg).Holds seg)
    (later : List Event) :
    ∃ t others, runSteps (between.length + 1) (s.withSchedule (between ++ .rxStep :: later)) = .next t ∧
      t.schedule = later ∧ t.rx = rest ∧ t.decState = .idle ∧
      t.responses = s.responses ++ others ++
        [⟨.fdec, (closedReceive s.cfg s.bufCap seg).1, (closedReceive s.cfg s.bufCap seg).2⟩] ∧
      ∀ r ∈ others, r.endsFdec = false := by
  obtain ⟨tx, others, hrun, hothers⟩ := h.completes
  have hsteps := runSteps_of_performEvents later hrun
  rw [List.length_append, List.append_assoc] at hsteps
  refine ⟨_, others, hsteps, rfl, rfl, rfl, ?_, hothers⟩
  have hresult := completionResult_of_holds hheld
  rw [State.receiveAll_cfg, State.receiveAll_bufCap] at hresult
  rw [← hresult, ← State.receiveAll_cfg s seg]
  rfl

end

/-- Settles O46: the FDEC starts a receive that holds nothing, and the decoder completes on the closed form of `seg`. -/
theorem receiveHasTheClosedForm : Obligations.ReceiveHasTheClosedForm := by
  intro s ops between later seg rest hd hs hend hF hrx hcount hserved
  have htrace : ReceiveTrace s.startReceive between seg rest :=
    ⟨rfl, hend, hF, hrx, hcount, fun before after hevents =>
      hserved before (after ++ [.rxStep]) (by rw [hevents]; simp)⟩
  have hstart : step s = .next (s.startReceive.withSchedule (between ++ .rxStep :: later)) :=
    (step_scheduled hs).trans (exec_fdec_idle hd)
  obtain ⟨t, others, hrun, ht⟩ := htrace.runSteps_closedForm (holds_receiveAll (holds_startReceive s) hF) later
  exact ⟨t, others, (runSteps_succ hstart).trans hrun, ht⟩

/-! The round trip (R132). -/

/-- The closed form of a HEADER and a body that fits the buffer. -/
theorem closedReceive_escapedBody {f : Family} (hf : f.wf = true) {cap : Cap} {p : List Byte}
    (h : admits cap (escapedBody f p).length = true) :
    closedReceive f cap (f.hdr :: escapedBody f p) = (.ok, .frame p true) := by
  obtain ⟨hH, -⟩ := delimiters_notMem_escapedBody hf p
  simp [closedReceive, afterLastHeader_hdr_cons hH, h, unescape_escapedBody hf, frameResult_ok]

/-- Settles O47: the frame's HEADER discards what the decoder holds, so the closed form is that of the frame. -/
theorem wireFrameIsReceivedBack : Obligations.WireFrameIsReceivedBack := by
  intro s p rest between later hd hcap hrx hs hend hcount
  obtain ⟨⟨hne, -⟩, -⟩ := s.cfg.wf_iff.mp s.cfg_wf
  obtain ⟨-, hF⟩ := delimiters_notMem_escapedBody s.cfg_wf p
  have hlen : (wireFrame s.cfg p).length = (s.cfg.hdr :: escapedBody s.cfg p).length + 1 := by simp [wireFrame]
  have htrace : ReceiveTrace s between (s.cfg.hdr :: escapedBody s.cfg p) (rest ++ between.flatMap Event.arrivals) :=
    { pending := hd
      noEnd := hend
      noFooter := by simp [hF, hne.symm]
      stream := by simp [hrx, wireFrame]
      count := by omega
      served := fun before after hevents => by
        have hbefore : before.countP Event.isRxStep < between.countP Event.isRxStep := by
          simp [hevents, List.countP_append, List.countP_cons, Event.isRxStep]
        rw [hrx, List.length_append]
        omega }
  have hheld : (s.receiveAll (s.cfg.hdr :: escapedBody s.cfg p)).Holds (s.cfg.hdr :: escapedBody s.cfg p) := by
    rw [State.receiveAll_cons, State.receiveByte_header]
    exact holds_receiveAll (holds_resync s []) hF
  obtain ⟨t, others, hrun, hlater, ht, hidle, hresp, hothers⟩ := htrace.runSteps_closedForm hheld later
  rw [closedReceive_escapedBody s.cfg_wf hcap] at hresp
  rw [← hs] at hrun
  exact ⟨t, others, hrun, hlater, hidle, ht, hresp, hothers⟩

end Sys2Proof.Machine
end

section
/-! Progress (R134): the runs of `step`, whatever is scheduled, and the executions in which expiry is weakly fair. -/

namespace Sys2Proof.Machine

/-! No event touches the schedule. -/

@[simp] theorem State.complete_schedule (s : State) : s.complete.schedule = s.schedule := rfl

@[simp] theorem State.closeReceive_schedule (s : State) : s.closeReceive.schedule = s.schedule := by
  rcases s.closeReceive_cases with ⟨-, h⟩ | ⟨-, h⟩ <;> simp [h]

@[simp] theorem State.receiveByte_schedule (s : State) (b : Byte) : (s.receiveByte b).schedule = s.schedule := by
  rcases s.receiveByte_cases b with ⟨-, h⟩ | ⟨-, -, h⟩ | ⟨-, -, -, h⟩ | ⟨-, -, -, h⟩ <;> simp [h]

theorem EventEffect.schedule {e : Event} {s t : State} (h : EventEffect s e t) : t.schedule = s.schedule := by
  cases h <;> simp [State.resetEvent]

/-! What becomes of a pending receive over several steps. -/

theorem StaysPending.refl {s : State} (hd : s.decState = .recv) : StaysPending s s := ⟨hd, [], by simp, rfl⟩

theorem StaysPending.trans {s t u : State} (h : StaysPending s t) (h' : StaysPending t u) : StaysPending s u := by
  obtain ⟨-, new, hnew, hcount⟩ := h
  obtain ⟨hd, new', hnew', hcount'⟩ := h'
  exact ⟨hd, new ++ new', by rw [hnew', hnew, List.append_assoc], by rw [List.countP_append, hcount, hcount']⟩

theorem StaysPending.endsReceive {s t u : State} (h : StaysPending s t) (h' : EndsReceive t u) : EndsReceive s u := by
  obtain ⟨-, new, hnew, hcount⟩ := h
  obtain ⟨hd, new', hnew', hcount'⟩ := h'
  exact ⟨hd, new ++ new', by rw [hnew', hnew, List.append_assoc], by rw [List.countP_append, hcount, hcount']⟩

/-! Runs of `step`. -/

theorem runSteps_one {s t : State} (h : step s = .next t) : runSteps 1 s = .next t := runSteps_succ (n := 0) h

/-- With nothing scheduled a step ends a receive with one response, or takes a byte and leaves it pending. -/
theorem step_unscheduled_recv {s : State} (hd : s.decState = .recv) (hs : s.schedule = []) :
    ∃ t, step s = .next t ∧
      ((t.decState = .idle ∧ ∃ r, t.responses = s.responses ++ [r] ∧ r.endsFdec = true) ∨
       (t.decState = .recv ∧ t.schedule = [] ∧ t.responses = s.responses ∧ ∃ b, s.rx = b :: t.rx)) := by
  obtain ⟨-, hempty, hwaiting⟩ := unscheduledStepIsAnEnabledEvent s hs
  cases hr : s.rx with
  | nil => exact ⟨_, hempty hd hr, .inl ⟨rfl, _, rfl, rfl⟩⟩
  | cons b rest =>
    rcases hwaiting b rest hd hr with h | h
    · exact ⟨_, h, .inl ⟨rfl, _, rfl, rfl⟩⟩
    · refine ⟨_, h, ?_⟩
      by_cases hF : b = s.cfg.ftr
      · rw [show State.receiveByte _ b = _ from
          hF ▸ ({ s with draws := s.draws + 1, rx := rest } : State).receiveByte_footer]
        exact .inl ⟨rfl, _, rfl, completionResult_endsFdec _ _ _ _⟩
      · obtain ⟨hd', hresp⟩ :=
          State.receiveByte_of_ne_footer (s := { s with draws := s.draws + 1, rx := rest }) (b := b) hF
        exact .inr ⟨hd'.trans hd, by simp [hs], hresp, b, by simp⟩

/-- Settles O49, by induction on the bytes that wait: a step ends the receive or takes one of them. -/
theorem receiveAlwaysEnds : Obligations.ReceiveAlwaysEnds := by
  intro s hd hs
  induction hr : s.rx generalizing s with
  | nil =>
    obtain ⟨t, hstep, ⟨hidle, r, hresp, hends⟩ | ⟨-, -, -, b, hb⟩⟩ := step_unscheduled_recv hd hs
    · exact ⟨1, t, r, Nat.le_refl 1, runSteps_one hstep, hidle, hresp, hends⟩
    · simp [hr] at hb
  | cons b rest ih =>
    obtain ⟨t, hstep, ⟨hidle, r, hresp, hends⟩ | ⟨hrecv, hs', hsame, c, hc⟩⟩ := step_unscheduled_recv hd hs
    · exact ⟨1, t, r, Nat.le_add_left 1 _, runSteps_one hstep, hidle, hresp, hends⟩
    · have hrest : t.rx = rest := (List.cons.inj (hc.symm.trans hr)).2
      obtain ⟨n, u, r, hn, hrun, hidle, hresp, hends⟩ := ih t hrecv hs' hrest
      exact ⟨n + 1, u, r, Nat.succ_le_succ hn, (runSteps_succ hstep).trans hrun, hidle, hsame ▸ hresp, hends⟩

/-- Settles O54, by induction on the schedule: its next event ends the receive, is stuck, or leaves it pending with no more
bytes to come than before; where the schedule is used up the block is on its own. -/
theorem receiveEndsUnderEverySchedule : Obligations.ReceiveEndsUnderEverySchedule := by
  intro s hd
  induction hs : s.schedule generalizing s with
  | nil =>
    obtain ⟨n, t, r, hn, hrun, hidle, hresp, hends⟩ := receiveAlwaysEnds s hd hs
    exact ⟨n, by simpa using hn, .inr ⟨t, [r], hrun, hidle, hresp, by simp [hends]⟩⟩
  | cons e later ih =>
    have hstep : step s = performEvent e (s.withSchedule later) := step_scheduled hs
    have hd' : (s.withSchedule later).decState = .recv := hd
    rcases performEvent_outcome e (s.withSchedule later) with ⟨-, t, ht⟩ | ⟨hne, ⟨-, hstuck⟩ | ⟨rfl, -⟩⟩
    · rcases performEvent_pending hd' ht with hpending | ⟨-, hidle, hnew⟩
      · have heffect := performEvent_effect ht
        have hrx : t.rx.length ≤ s.rx.length + e.arrivals.length := by
          rw [heffect.rx, List.length_drop, List.length_append]
          exact Nat.sub_le _ _
        obtain ⟨n, hn, hrun⟩ := ih t hpending.1 heffect.schedule
        refine ⟨n + 1, ?_, ?_⟩
        · rw [List.length_cons, List.flatMap_cons, List.length_append]
          omega
        · rw [runSteps_succ (hstep.trans ht)]
          refine hrun.imp id fun ⟨u, new, hu, hidle, hnew, hcount⟩ => ?_
          obtain ⟨-, new', hends⟩ := hpending.endsReceive ⟨hidle, new, hnew, hcount⟩
          exact ⟨u, new', hu, hidle, hends⟩
      · obtain ⟨new, hresp, hcount⟩ := hnew
        exact ⟨1, Nat.le_add_left 1 _, .inr ⟨t, new, runSteps_one (hstep.trans ht), hidle, hresp, hcount⟩⟩
    · exact ⟨1, Nat.le_add_left 1 _, .inl (by simp [runSteps, hstep, hstuck])⟩
    · simp [(expire_enabled _).mpr hd'] at hne

end Sys2Proof.Machine
end

section
/-! Executions without end (R134): where expiry is weakly fair every receive ends, and the condition takes no finite behaviour
away. -/

namespace Sys2Proof.Machine

/-! Where expiry is weakly fair. -/

/-- A receive that is pending up to a step of an execution has not been answered up to there. -/
theorem Execution.staysPending {x : Execution} (hx : x.runs) {n m : Nat} (hnm : n ≤ m)
    (hd : ∀ k, n ≤ k → k ≤ m → (x.state k).decState = .recv) : StaysPending (x.state n) (x.state m) := by
  induction m, hnm using Nat.le_induction with
  | base => exact .refl (hd n (Nat.le_refl n) (Nat.le_refl n))
  | succ m hnm ih =>
    have hbefore := ih fun k hk hkm => hd k hk (Nat.le_succ_of_le hkm)
    rcases performEvent_pending hbefore.1 (hx m) with hpending | ⟨-, hidle, -⟩
    · exact hbefore.trans hpending
    · simp [hd (m + 1) (Nat.le_succ_of_le hnm) (Nat.le_refl _)] at hidle

/-- A receive cannot stay pending for ever: expiry would stay enabled, so it is taken, and it ends the receive. -/
theorem Execution.exists_idle {x : Execution} (hx : x.fair) (n : Nat) : ∃ m, n ≤ m ∧ (x.state m).decState = .idle := by
  obtain ⟨hruns, hfair⟩ := hx
  by_contra! hnever
  have hrecv : ∀ m, n ≤ m → (x.state m).decState = .recv := fun m hm => by
    cases hd : (x.state m).decState with
    | idle => exact absurd hd (hnever m hm)
    | recv => rfl
  obtain ⟨m, hm, hexpire⟩ := hfair n fun m hm => (expire_enabled _).mpr (hrecv m hm)
  obtain ⟨-, ht⟩ := expiryEvent_next.mp (hexpire ▸ hruns m : performEvent .expire _ = _)
  exact hnever (m + 1) (Nat.le_succ_of_le hm) (ht ▸ rfl)

/-- So there is a last step up to which the receive stays pending: the one before the first idle state. -/
theorem Execution.exists_last_recv {x : Execution} (hx : x.fair) {n : Nat} (hd : (x.state n).decState = .recv) :
    ∃ m, n ≤ m ∧ (∀ k, n ≤ k → k ≤ m → (x.state k).decState = .recv) ∧ (x.state (m + 1)).decState = .idle := by
  have hidle := x.exists_idle hx n
  obtain ⟨hn, hfirst⟩ := Nat.find_spec hidle
  have hne : n ≠ Nat.find hidle := by
    intro h
    rw [← h, hd] at hfirst
    cases hfirst
  obtain ⟨m, hm⟩ : ∃ m, Nat.find hidle = m + 1 := Nat.exists_eq_succ_of_ne_zero (by omega)
  refine ⟨m, by omega, fun k hnk hkm => ?_, hm ▸ hfirst⟩
  have hnot := Nat.find_min hidle (m := k) (by omega)
  cases hk : (x.state k).decState with
  | recv => rfl
  | idle => exact absurd ⟨hnk, hk⟩ hnot

/-- Settles O55: the step before the first idle state ends the receive, and no step before it has answered. -/
theorem fairExecutionsAnswerEveryFdec : Obligations.FairExecutionsAnswerEveryFdec := by
  intro x hx n hd
  obtain ⟨m, hnm, hbefore, hidle⟩ := Execution.exists_last_recv hx hd
  have hpending := x.staysPending hx.1 hnm hbefore
  rcases performEvent_pending hpending.1 (hx.1 m) with ⟨hrecv, -⟩ | ⟨hcause, hends⟩
  · simp [hrecv] at hidle
  · exact ⟨m, hnm, hbefore, hidle, hcause, (hpending.endsReceive hends).2⟩

/-! Fair executions that begin with given events. -/

/-- The execution that takes the event `e` at `s`, and then goes on as `x`. -/
def Execution.cons (s : State) (e : Event) (x : Execution) : Execution where
  state
    | 0 => s
    | n + 1 => x.state n
  event
    | 0 => e
    | n + 1 => x.event n

/-- The execution in which nothing happens (entry 8). -/
def Execution.still (s : State) : Execution where
  state _ := s
  event _ := .rxArrive []

theorem Execution.still_fair {s : State} (hd : s.decState = .idle) : (Execution.still s).fair := by
  refine ⟨fun _ => performEvent_arriveNone s, fun n henabled => ?_⟩
  have hrecv := (expire_enabled s).mp (henabled n (Nat.le_refl n))
  simp [hd] at hrecv

/-- One event more at the beginning keeps an execution fair. -/
theorem Execution.cons_fair {s : State} {e : Event} {x : Execution} (h : performEvent e s = .next (x.state 0))
    (hx : x.fair) : (Execution.cons s e x).fair := by
  obtain ⟨hruns, hfair⟩ := hx
  refine ⟨fun n => ?_, fun n henabled => ?_⟩
  · cases n with
    | zero => exact h
    | succ n => exact hruns n
  · obtain ⟨m, hm, hexpire⟩ := hfair n fun m hm => henabled (m + 1) (Nat.le_succ_of_le hm)
    exact ⟨m + 1, Nat.le_succ_of_le hm, hexpire⟩

/-- From every state some execution is fair: a pending receive expires, and then nothing happens. -/
theorem Execution.exists_fair (s : State) : ∃ x : Execution, x.fair ∧ x.state 0 = s := by
  cases hd : s.decState with
  | idle => exact ⟨.still s, Execution.still_fair hd, rfl⟩
  | recv =>
    have hexpiry : performEvent .expire s = .next (s.endReceive (.timeout, .none)) := expiryEvent_next.mpr ⟨hd, rfl⟩
    exact ⟨.cons s .expire (.still _), Execution.cons_fair hexpiry (Execution.still_fair rfl), rfl⟩

/-- Settles O56, by induction on the events that have been taken: each is put before an execution that is fair. -/
theorem fairnessExcludesNoFiniteRun : Obligations.FairnessExcludesNoFiniteRun := by
  intro events
  induction events with
  | nil =>
    rintro s t h
    cases h
    obtain ⟨x, hx, h0⟩ := Execution.exists_fair s
    exact ⟨x, hx, h0, h0, fun n hn => absurd hn (Nat.not_lt_zero n)⟩
  | cons e events ih =>
    intro s t h
    obtain ⟨u, hu, hrest⟩ := performEvents_cons_next.mp h
    obtain ⟨x, hx, h0, hend, hevents⟩ := ih u t hrest
    refine ⟨.cons s e x, Execution.cons_fair (h0 ▸ hu) hx, rfl, hend, fun n hn => ?_⟩
    cases n with
    | zero => rfl
    | succ n => exact hevents n (Nat.lt_of_succ_lt_succ hn)

end Sys2Proof.Machine
end

section
/-! SUPPORT. 16-bit values: the range check of R161 and big-endian composition (20_memory.md R53), with what the host
may present at a 16-bit port (42_key_record.md R162). -/

namespace Sys2Proof.Machine

theorem valid16_iff (v : Half) : valid16 v = true ↔ v ≠ 0x0000 ∧ v ≠ 0xFFFF := by
  simp only [valid16, Bool.and_eq_true, decide_eq_true_eq]
  bv_omega

theorem valid16_eq_false_iff (v : Half) : valid16 v = false ↔ v = 0x0000 ∨ v = 0xFFFF := by
  rw [← Bool.not_eq_true, valid16_iff, not_and_or, not_not, not_not]

/-- The value fits 16 bits, so the multiplication and the addition of R53 do not wrap. -/
theorem be16_toNat (a b : Byte) : (be16 a b).toNat = a.toNat * 256 + b.toNat := by
  simp only [be16, BitVec.toNat_add, BitVec.toNat_mul, BitVec.toNat_setWidth, BitVec.ofNat_eq_ofNat, BitVec.toNat_ofNat]
  omega

@[simp] theorem hi8_be16 (a b : Byte) : hi8 (be16 a b) = a := by
  apply BitVec.eq_of_toNat_eq
  rw [hi8, BitVec.extractLsb'_toNat, be16_toNat, Nat.shiftRight_eq_div_pow]
  omega

@[simp] theorem lo8_be16 (a b : Byte) : lo8 (be16 a b) = b := by
  apply BitVec.eq_of_toNat_eq
  rw [lo8, BitVec.extractLsb'_toNat, be16_toNat, Nat.shiftRight_eq_div_pow]
  omega

/-- Settles O26: the range check as two exclusions, and composition without a carry into a third byte. -/
theorem halfArithmeticIsExact : Obligations.HalfArithmeticIsExact :=
  ⟨valid16_iff, be16_hi8_lo8, fun a b => ⟨be16_toNat a b, hi8_be16 a b, lo8_be16 a b⟩⟩

theorem HostValue.present_above {n : Nat} (h : 0xFFFF < n) : (HostValue.int n).present = .error .rangeError :=
  if_neg (by omega)

/-- Settles O27: text by its kind, an integer by its range. -/
theorem hostValuesBeyondThePortAreRejected : Obligations.HostValuesBeyondThePortAreRejected :=
  ⟨fun _ => rfl, fun _ => HostValue.present_above, HostValue.present_toNat⟩

end Sys2Proof.Machine
end

section
/-! SUPPORT. What KENC and KDEC answer, said once: their checks in the order of R164, and exactly where each answers OK. -/

namespace Sys2Proof.Machine

section

variable (cap : Cap) (sln kid : Half) (kek erase : Bool) (key : List Byte)

/-- KENC's outcomes, each with the checks that lead to it (R160, R164). -/
theorem kencResult_cases :
    (valid16 sln = false ∧ kencResult cap sln kid kek erase key = (.validationSln, .none)) ∨
    (valid16 sln = true ∧ valid16 kid = false ∧ kencResult cap sln kid kek erase key = (.validationKid, .none)) ∨
    (valid16 sln = true ∧ valid16 kid = true ∧ admits cap (5 + key.length) = false ∧
      kencResult cap sln kid kek erase key = (.krTooLong, .none)) ∨
    (valid16 sln = true ∧ valid16 kid = true ∧ admits cap (5 + key.length) = true ∧
      kencResult cap sln kid kek erase key = (.ok, .record (keyRecord sln kid kek erase key))) := by
  cases hsln : valid16 sln with
  | false => simp [kencResult, hsln]
  | true =>
    cases hkid : valid16 kid with
    | false => simp [kencResult, hsln, hkid]
    | true => cases hcap : admits cap (5 + key.length) <;> simp [kencResult, hsln, hkid, hcap]

/-- The outcomes of KDEC's checks on the fixed bytes, in the order of R164. -/
theorem kdecFields_cases (flags slnHi slnLo kidHi kidLo : Byte) :
    (flags &&& reservedFlagMask ≠ 0#8 ∧
      kdecFields flags slnHi slnLo kidHi kidLo key = (.krReservedFlags, .none)) ∨
    (flags &&& reservedFlagMask = 0#8 ∧ valid16 (be16 slnHi slnLo) = false ∧
      kdecFields flags slnHi slnLo kidHi kidLo key = (.validationSln, .none)) ∨
    (flags &&& reservedFlagMask = 0#8 ∧ valid16 (be16 slnHi slnLo) = true ∧ valid16 (be16 kidHi kidLo) = false ∧
      kdecFields flags slnHi slnLo kidHi kidLo key = (.validationKid, .none)) ∨
    (flags &&& reservedFlagMask = 0#8 ∧ valid16 (be16 slnHi slnLo) = true ∧ valid16 (be16 kidHi kidLo) = true ∧
      kdecFields flags slnHi slnLo kidHi kidLo key =
        (.ok, .item (be16 slnHi slnLo) (be16 kidHi kidLo) (flagKek flags) (flagErase flags) key)) := by
  by_cases hflags : flags &&& reservedFlagMask = 0#8
  · cases hsln : valid16 (be16 slnHi slnLo) with
    | false => simp [kdecFields, hflags, hsln]
    | true => cases hkid : valid16 (be16 kidHi kidLo) <;> simp [kdecFields, hflags, hsln, hkid]
  · simp [kdecFields, hflags]

/-- KDEC's outcomes before it reads a field: too long, too short, or the fixed bytes are there (R163, R164). -/
theorem kdecResult_cases (r : List Byte) :
    (admits cap r.length = false ∧ kdecResult cap r = (.krTooLong, .none)) ∨
    (admits cap r.length = true ∧ r.length < 5 ∧ kdecResult cap r = (.krLength, .none)) ∨
    (admits cap r.length = true ∧ ∃ flags slnHi slnLo kidHi kidLo key,
      r = flags :: slnHi :: slnLo :: kidHi :: kidLo :: key ∧
        kdecResult cap r = kdecFields flags slnHi slnLo kidHi kidLo key) := by
  cases hcap : admits cap r.length with
  | false => exact .inl ⟨rfl, by simp [kdecResult, hcap]⟩
  | true =>
    refine .inr ?_
    match r with
    | flags :: slnHi :: slnLo :: kidHi :: kidLo :: key =>
      exact .inr ⟨rfl, _, _, _, _, _, _, rfl, if_neg (by rw [hcap]; decide)⟩
    | [] | [_] | [_, _] | [_, _, _] | [_, _, _, _] =>
      exact .inl ⟨rfl, by simp, if_neg (by rw [hcap]; decide)⟩

/-- A flag byte with no reserved bit is the flag byte of its two flags (R83, R84). -/
theorem flagByte_of_reserved_clear : ∀ flags : Byte, flags &&& reservedFlagMask = 0#8 →
    flagByte (flagKek flags) (flagErase flags) = flags := by decide

variable {cap sln kid kek erase key} {r : List Byte}

/-- KENC answers OK exactly for a valid key item whose record fits, and then with that record. -/
theorem kencResult_eq_ok_iff :
    kencResult cap sln kid kek erase key = (.ok, .record r) ↔
      r = keyRecord sln kid kek erase key ∧
        valid16 sln = true ∧ valid16 kid = true ∧ admits cap (5 + key.length) = true := by
  rcases kencResult_cases cap sln kid kek erase key with
    ⟨hsln, h⟩ | ⟨hsln, hkid, h⟩ | ⟨hsln, hkid, hcap, h⟩ | ⟨hsln, hkid, hcap, h⟩
  · simp [h, hsln]
  · simp [h, hkid]
  · simp [h, hcap]
  · simp [h, hsln, hkid, hcap, eq_comm]

/-- KDEC answers OK exactly for the record of a valid key item that fits, and then with that key item. -/
theorem kdecResult_eq_ok_iff :
    kdecResult cap r = (.ok, .item sln kid kek erase key) ↔
      r = keyRecord sln kid kek erase key ∧
        valid16 sln = true ∧ valid16 kid = true ∧ admits cap (5 + key.length) = true := by
  constructor
  · intro hok
    rcases kdecResult_cases cap r with
      ⟨-, h⟩ | ⟨-, -, h⟩ | ⟨hcap, flags, slnHi, slnLo, kidHi, kidLo, tail, rfl, h⟩
    · simp [h] at hok
    · simp [h] at hok
    rw [h] at hok
    rcases kdecFields_cases tail flags slnHi slnLo kidHi kidLo with
      ⟨-, hf⟩ | ⟨-, -, hf⟩ | ⟨-, -, -, hf⟩ | ⟨hflags, hsln, hkid, hf⟩
    · simp [hf] at hok
    · simp [hf] at hok
    · simp [hf] at hok
    rw [hf] at hok
    cases hok
    have hrecord : flags :: slnHi :: slnLo :: kidHi :: kidLo :: key =
        keyRecord (be16 slnHi slnLo) (be16 kidHi kidLo) (flagKek flags) (flagErase flags) key := by
      simp [keyRecord, flagByte_of_reserved_clear flags hflags]
    refine ⟨hrecord, hsln, hkid, ?_⟩
    rwa [hrecord, keyRecord_length] at hcap
  · rintro ⟨rfl, hsln, hkid, hcap⟩
    exact kdecResult_keyRecord kek erase hsln hkid hcap

end

/-- A response is read off the state it leaves. -/
theorem State.answer_eq_respond_iff {s : State} {who : Responder} {a : Status × ResultFields} {st : Status}
    {fs : ResultFields} : s.answer who a = s.respond who st fs ↔ a = (st, fs) := by
  constructor
  · intro h
    have hresponses := congrArg State.responses h
    simpa [Prod.ext_iff] using hresponses
  · rintro rfl
    rfl

section

variable {s : State} {sln kid : Half} {kek erase : Bool} {key r : List Byte}

theorem exec_kenc_ok_iff :
    exec (.kenc sln kid kek erase key) s = .next (s.respond .kenc .ok (.record r)) ↔
      r = keyRecord sln kid kek erase key ∧
        valid16 sln = true ∧ valid16 kid = true ∧ admits s.krCap (5 + key.length) = true := by
  rw [exec_kenc, Host.Outcome.next.injEq, State.answer_eq_respond_iff, kencResult_eq_ok_iff]

theorem exec_kdec_ok_iff :
    exec (.kdec r) s = .next (s.respond .kdec .ok (.item sln kid kek erase key)) ↔
      r = keyRecord sln kid kek erase key ∧
        valid16 sln = true ∧ valid16 kid = true ∧ admits s.krCap (5 + key.length) = true := by
  rw [exec_kdec, Host.Outcome.next.injEq, State.answer_eq_respond_iff, kdecResult_eq_ok_iff]

/-- The two commands answer OK on the same pairs of a record and a key item. -/
theorem exec_kdec_ok_iff_exec_kenc_ok :
    exec (.kdec r) s = .next (s.respond .kdec .ok (.item sln kid kek erase key)) ↔
      exec (.kenc sln kid kek erase key) s = .next (s.respond .kenc .ok (.record r)) :=
  exec_kdec_ok_iff.trans exec_kenc_ok_iff.symm

end

end Sys2Proof.Machine
end

section
/-! The statements of 42_key_record.md: the round trip, the two commands' answers, and their independence of the state. -/

namespace Sys2Proof.Machine

/-- Settles O33: OK of either command says that the record is the item's; so each undoes the other, and two items with
one record are both what KDEC answers for it. -/
theorem keyRecordRoundTrip : Obligations.KeyRecordRoundTrip := by
  refine fun s => ⟨fun sln kid kek erase key hsln hkid hcap => ?_, fun r sln kid kek erase key => ?_,
    fun r r' sln kid kek erase key h h' => ?_, fun sln kid sln' kid' kek erase kek' erase' key key' r h h' => ?_⟩
  · exact ⟨_, exec_kenc_ok kek erase hsln hkid hcap, exec_kdec_keyRecord kek erase hsln hkid hcap⟩
  · exact exec_kdec_ok_iff_exec_kenc_ok.mp
  · exact (exec_kdec_ok_iff.mp h).1.trans (exec_kdec_ok_iff.mp h').1.symm
  · rw [← exec_kdec_ok_iff_exec_kenc_ok, exec_kdec, Host.Outcome.next.injEq, State.answer_eq_respond_iff] at h h'
    simpa using h.symm.trans h'

/-- Settles O4, outcome by outcome of KENC's checks. -/
theorem kencAnswersTheKeyRecord : Obligations.KencAnswersTheKeyRecord := by
  refine ⟨decode_kenc, fun sln kid kek erase key s => ?_⟩
  rw [exec_kenc, State.answer, State.respond]
  simp only [← valid16_eq_false_iff]
  rcases kencResult_cases s.krCap sln kid kek erase key with
    ⟨hsln, h⟩ | ⟨hsln, hkid, h⟩ | ⟨hsln, hkid, hcap, h⟩ | ⟨hsln, hkid, hcap, h⟩
  · simp [h, hsln]
  · simp [h, hsln, hkid]
  · simp [h, hsln, hkid, hcap]
  · have hrecord : keyRecord sln kid kek erase key =
        [(if kek then 0x80 else 0x00) + (if erase then 0x20 else 0x00),
          sln.extractLsb' 8 8, sln.extractLsb' 0 8, kid.extractLsb' 8 8, kid.extractLsb' 0 8] ++ key := by
      cases kek <;> cases erase <;> rfl
    simp [h, hsln, hkid, hcap, hrecord]

/-- Settles O5, outcome by outcome of KDEC's checks. -/
theorem kdecAnswersTheKeyItem : Obligations.KdecAnswersTheKeyItem := by
  refine ⟨decode_kdec, fun r s => ?_⟩
  rw [exec_kdec, State.answer, State.respond]
  simp only [← valid16_eq_false_iff, ← be16.eq_1, ← reservedFlagMask.eq_1, ← flagKek.eq_1, ← flagErase.eq_1]
  rcases kdecResult_cases s.krCap r with
    ⟨hcap, h⟩ | ⟨hcap, hlen, h⟩ | ⟨hcap, flags, slnHi, slnLo, kidHi, kidLo, key, rfl, h⟩
  · simp [h, hcap]
  · simp [h, hcap, hlen]
  simp only [List.length_cons] at hcap
  rcases kdecFields_cases key flags slnHi slnLo kidHi kidLo with
    ⟨hflags, hf⟩ | ⟨hflags, hsln, hf⟩ | ⟨hflags, hsln, hkid, hf⟩ | ⟨hflags, hsln, hkid, hf⟩
  · simp [h, hf, hcap, hflags]
  · simp [h, hf, hcap, hflags, hsln]
  · simp [h, hf, hcap, hflags, hsln, hkid]
  · simp [h, hf, hcap, hflags, hsln, hkid]

/-- Settles O43: the framing constants and KR_CAP, all that the three responses read of a state, are the instantiation's. -/
theorem encoderAndKeyUnitKeepNoState : Obligations.EncoderAndKeyUnitKeepNoState := by
  intro s u hinst
  have hcfg : u.cfg = s.cfg := congrArg (fun i => i.params.family) hinst.symm
  have hkrCap : u.krCap = s.krCap := congrArg (fun i => i.params.krCap) hinst.symm
  refine ⟨fun p => ⟨wireFrame s.cfg p, .ok, .none, ?_, ?_⟩,
    fun sln kid kek erase key => ⟨_, _, exec_kenc .., ?_⟩, fun r => ⟨_, _, exec_kdec .., ?_⟩⟩
  · rw [exec_fenc, State.txPushAll_eq]
    rfl
  · rw [exec_fenc, State.txPushAll_eq, hcfg]
    rfl
  · rw [exec_kenc, hkrCap]
    rfl
  · rw [exec_kdec, hkrCap]
    rfl

end Sys2Proof.Machine
end

section
/-! R201 and R74: every response is one its command may get, with that command's fields. -/

namespace Sys2Proof.Machine

/-! The results that a response reports: each of its status's command (R75), with fields on OK alone (R74). -/

/-- An error status that its command may get, given with no fields. -/
theorem legal_error {who : Responder} {st : Status} (hmay : who.mayAnswer st = true) (herror : st ≠ .ok) :
    Response.legal ⟨who, st, .none⟩ = true := by
  cases st with
  | ok => exact absurd rfl herror
  | _ => simp [Response.legal, Response.wellShaped, hmay]

/-- The unescape pass succeeds, or reports one of the two faults of R125. -/
theorem unescapeFrom_status (f : Family) (out s : List Byte) :
    (unescapeFrom f out s).1 = .ok ∨ (unescapeFrom f out s).1 = .framingBadPlaceholder ∨
      (unescapeFrom f out s).1 = .framingTrailingEscape := by
  fun_induction unescapeFrom f out s with
  | case1 out => exact .inl rfl
  | case2 out => exact .inr (.inr rfl)
  | case3 out c rest d hsub ih => exact ih
  | case4 out c rest hsub => exact .inr (.inl rfl)
  | case5 out b rest hne ih => exact ih

/-- A completion answers its FDEC with OK and a frame, or with one of the three framing errors (R126). -/
theorem completionResult_legal (f : Family) (buf : List Byte) (ovf hdr : Bool) :
    Response.legal ⟨.fdec, (completionResult f buf ovf hdr).1, (completionResult f buf ovf hdr).2⟩ = true := by
  rw [completionResult_response]
  split_ifs with hovf hok
  · rfl
  · rfl
  · refine legal_error ?_ hok
    rcases unescapeFrom_status f [] buf with h | h | h
    · exact absurd h hok
    · rw [unescape, h]
      rfl
    · rw [unescape, h]
      rfl

theorem kencResult_legal (cap : Cap) (sln kid : Half) (kek erase : Bool) (key : List Byte) :
    Response.legal ⟨.kenc, (kencResult cap sln kid kek erase key).1, (kencResult cap sln kid kek erase key).2⟩ =
      true := by
  rcases kencResult_cases cap sln kid kek erase key with ⟨-, h⟩ | ⟨-, -, h⟩ | ⟨-, -, -, h⟩ | ⟨-, -, -, h⟩ <;>
    rw [h] <;> rfl

theorem kdecResult_legal (cap : Cap) (r : List Byte) :
    Response.legal ⟨.kdec, (kdecResult cap r).1, (kdecResult cap r).2⟩ = true := by
  rcases kdecResult_cases cap r with ⟨-, h⟩ | ⟨-, -, h⟩ | ⟨-, flags, slnHi, slnLo, kidHi, kidLo, key, -, h⟩ <;> rw [h]
  · rfl
  · rfl
  · rcases kdecFields_cases key flags slnHi slnLo kidHi kidLo with
      ⟨-, hf⟩ | ⟨-, -, hf⟩ | ⟨-, -, -, hf⟩ | ⟨-, -, -, hf⟩ <;> rw [hf] <;> rfl

/-- `t` adds only legal responses to those of `s`. -/
def AnswersLegally (s t : State) : Prop := ∃ new, t.responses = s.responses ++ new ∧ ∀ r ∈ new, r.legal = true

section

variable {s t : State}

theorem answersLegally_silent (hr : t.responses = s.responses) : AnswersLegally s t := ⟨[], by simp [hr], by simp⟩

theorem answersLegally_response {r : Response} (hr : t.responses = s.responses ++ [r]) (hlegal : r.legal = true) :
    AnswersLegally s t := ⟨[r], hr, by simpa using hlegal⟩

theorem AnswersLegally.trans {u : State} (h : AnswersLegally s t) (h' : AnswersLegally t u) : AnswersLegally s u := by
  obtain ⟨new, hnew, hlegal⟩ := h
  obtain ⟨new', hnew', hlegal'⟩ := h'
  exact ⟨new ++ new', by rw [hnew', hnew, List.append_assoc], List.forall_mem_append.mpr ⟨hlegal, hlegal'⟩⟩

/-- The close of a receive answers CLOSED or nothing (R130, R231). -/
theorem answersLegally_closeReceive (s : State) : AnswersLegally s s.closeReceive := by
  rcases s.closeReceive_cases with ⟨-, h⟩ | ⟨-, h⟩ <;> rw [h]
  · exact answersLegally_response (r := ⟨.fdec, .closed, .none⟩) rfl rfl
  · exact answersLegally_silent rfl

/-- A received byte answers only where it completes the frame (R123). -/
theorem answersLegally_receiveByte (s : State) (b : Byte) : AnswersLegally s (s.receiveByte b) := by
  rcases s.receiveByte_cases b with ⟨-, h⟩ | ⟨-, -, h⟩ | ⟨-, -, -, h⟩ | ⟨-, -, -, h⟩ <;> rw [h]
  · exact answersLegally_silent rfl
  · exact answersLegally_response rfl (completionResult_legal ..)
  · exact answersLegally_silent rfl
  · exact answersLegally_silent rfl

end

/-- Every event answers only what R201 lists for the command that the response ends. -/
theorem EventEffect.answersLegally {e : Event} {s t : State} (h : EventEffect s e t) : AnswersLegally s t := by
  cases h with
  | fenc ops => exact answersLegally_response (r := ⟨.fenc, .ok, .none⟩) rfl rfl
  | fdecStarts ops hd => exact answersLegally_silent rfl
  | fdecBusy ops hd => exact answersLegally_response (r := ⟨.fdec, .busy, .none⟩) rfl rfl
  | fabt ops =>
    exact (answersLegally_closeReceive s).trans (answersLegally_response (r := ⟨.fabt, .ok, .none⟩) rfl rfl)
  | kenc ops => exact answersLegally_response rfl (kencResult_legal ..)
  | kdec ops => exact answersLegally_response rfl (kdecResult_legal ..)
  | reserved cmd ops => exact answersLegally_response (r := ⟨.reserved cmd, .illegalCmd, .none⟩) rfl rfl
  | rxArrive bs => exact answersLegally_silent rfl
  | rxStep b rest hd hr => exact answersLegally_receiveByte { s with rx := rest } b
  | expire hd => exact answersLegally_response (r := ⟨.fdec, .timeout, .none⟩) rfl rfl
  | reset => exact (answersLegally_closeReceive s).trans (answersLegally_silent (t := s.resetEvent) rfl)

/-- Settles O41: a step answers what its event answers, and nothing where the block waits in IDLE. -/
theorem onlyTheListedResponsesAreGiven : Obligations.OnlyTheListedResponsesAreGiven := by
  intro s t h
  rcases step_next_cases h with ⟨_, _, -, he⟩ | ⟨-, -, rfl⟩ | ⟨-, -, _, _, -, he⟩
  · exact he.answersLegally
  · exact answersLegally_silent rfl
  · exact he.answersLegally

end Sys2Proof.Machine
end

section
/-! R202 and R87: a KSEND whose validation fails ends before its FENC. -/

namespace Sys2Proof.Machine

/-- KSEND issues no second command on a status other than OK. -/
theorem followUp_ksend_error {sln kid : Half} {kek erase : Bool} {key : List Byte} {r : Response}
    (h : r.status ≠ .ok) : followUp (.ksend sln kid kek erase key) r = none := by
  obtain ⟨source, status, fields⟩ := r
  cases status with
  | ok => exact absurd rfl h
  | _ => cases source <;> rfl

/-- KENC of a key item that fails a check answers that check's status, with no record (R160, R164). -/
theorem kencResult_error {cap : Cap} {sln kid : Half} (kek erase : Bool) {key : List Byte}
    (h : valid16 sln = false ∨ valid16 kid = false ∨ admits cap (5 + key.length) = false) :
    ∃ st, (st = .validationSln ∨ st = .validationKid ∨ st = .krTooLong) ∧
      kencResult cap sln kid kek erase key = (st, .none) := by
  rcases kencResult_cases cap sln kid kek erase key with
    ⟨-, hr⟩ | ⟨-, -, hr⟩ | ⟨-, -, -, hr⟩ | ⟨hsln, hkid, hcap, -⟩
  · exact ⟨_, .inl rfl, hr⟩
  · exact ⟨_, .inr (.inl rfl), hr⟩
  · exact ⟨_, .inr (.inr rfl), hr⟩
  · simp [hsln, hkid, hcap] at h

/-- Settles O51: KENC's error is the first response, and the host goes no further on it. -/
theorem failedKsendSendsNothing : Obligations.FailedKsendSendsNothing := by
  intro s sln kid kek erase key hfails
  obtain ⟨st, hst, hresult⟩ := kencResult_error kek erase hfails
  have hkenc : exec (.kenc sln kid kek erase key) s = .next (s.raise .kenc st) := by
    rw [exec_kenc, hresult]
    rfl
  have herror : st ≠ .ok := by rcases hst with rfl | rfl | rfl <;> decide
  exact ⟨st, hst, (performPseudo_answered (.ksend sln kid kek erase key) hkenc rfl).trans
    (resumePseudo_none _ (followUp_ksend_error herror))⟩

end Sys2Proof.Machine
end

section
/-! 70_reset_and_hazards.md: what the reset event does to a block, and the block right after reset. -/

namespace Sys2Proof.Machine

/-- R231: reset while a receive is pending ends it with CLOSED, as FABT would. -/
theorem State.resetEvent_recv {s : State} (h : s.decState = .recv) :
    s.resetEvent = s.endReceive (.closed, .none) := by
  rw [State.resetEvent, State.closeReceive_recv h]
  rfl

/-- R230: reset with no receive pending answers nothing. -/
theorem State.resetEvent_idle {s : State} (h : s.decState = .idle) : s.resetEvent = s.clearDecoder := by
  rw [State.resetEvent, State.closeReceive_idle h]

/-- R208: the deadline is not armed while IDLE. -/
theorem State.deadlineArmed_idle {s : State} (h : s.decState = .idle) : s.deadlineArmed = false := by
  rw [State.deadlineArmed, h]
  rfl

/-- Settles O15: the reset event by the decoder's state, with a CLOSED only where a receive is pending. -/
theorem resetEventClearsTheDecoder : Obligations.ResetEventClearsTheDecoder := by
  intro s
  refine congrArg Host.Outcome.next ?_
  cases hd : s.decState with
  | recv =>
    rw [State.resetEvent_recv hd, if_pos rfl]
    rfl
  | idle =>
    rw [State.resetEvent_idle hd, if_neg (by decide), List.append_nil]
    rfl

/-- Settles O19: the values of power-on, and with them the deadline, which is not armed in IDLE. -/
theorem resetHoldsTheStatedValues : Obligations.ResetHoldsTheStatedValues :=
  ⟨State.powerOn_decState _, State.powerOn_decBuf _, State.powerOn_decOvf _, State.powerOn_decHdr _,
    congrArg (fun i : Instantiation => i.params.family) (State.powerOn_inst _),
    State.deadlineArmed_idle (State.powerOn_decState _)⟩

end Sys2Proof.Machine
end
